-- ==== Sys2Proof/Word.lean ====
section
/-! DEFINITION. The two widths of the hardware: the byte of every register (rule R6) and the 12-bit stimulus word (rule R62). -/

namespace Sys2Proof

/-- Every register, every operand and every datum of the block is one byte; bit 0 is the least significant (rules R6, R10). -/
abbrev Byte := BitVec 8

/-- The spec's own 12-bit encoding of one operation (rule R62). -/
abbrev StimulusWord := BitVec 12

end Sys2Proof
end

