-- ==== Sys2Proof/Config.lean ====
section
/-! DEFINITION. What an implementation fixes (the parameters of rule R7), and the free values the spec leaves to the streams behind the endpoints (rule R30; U2, U3 and U5 of spec/93_implementation_defined.md). -/

namespace Sys2Proof

/-- The parameters of rule R7, and which kinds of input stream the host build supports (rule R93). A machine carries its parameters in its state and no step changes them, so that a statement about every state is a statement about every choice of them (log 1). -/
structure Config where
  addrWidth : Nat
  addrStatus : Nat
  addrControl : Nat
  addrData : Nat
  dreBit : Fin 8
  txcBit : Fin 8
  rxcBit : Fin 8
  rxcieBit : Fin 8
  rxIrqLine : Nat
  statusReset : Byte
  controlReset : Byte
  txcSetOnWrite : Bool
  statusStoreOther : Bool
  supportsConsole : Bool
  supportsFile : Bool
  supportsPipe : Bool
  deriving DecidableEq, Repr

/-- The constraints of rule R7: addresses within the width and pairwise distinct, status bit positions pairwise distinct, and a reset status with ReceiveComplete clear. -/
abbrev Config.WF (c : Config) : Prop :=
  0 < c.addrWidth ∧
  c.addrStatus < 2 ^ c.addrWidth ∧ c.addrControl < 2 ^ c.addrWidth ∧ c.addrData < 2 ^ c.addrWidth ∧
  c.addrStatus ≠ c.addrControl ∧ c.addrStatus ≠ c.addrData ∧ c.addrControl ≠ c.addrData ∧
  c.dreBit ≠ c.txcBit ∧ c.dreBit ≠ c.rxcBit ∧ c.txcBit ≠ c.rxcBit ∧
  c.statusReset.getLsbD c.rxcBit.val = false

/-- The suggested instantiation P0 of rule R7 with the decisions D4, D5 and D6. PRESUMED (log 1): bit positions, addresses, width and line are general knowledge of one AVR part and not in the source. Only `State.reset` and tests use it; no meaning does. -/
def Config.p0 : Config where
  addrWidth := 16
  addrStatus := 0x00C0
  addrControl := 0x00C1
  addrData := 0x00C6
  dreBit := 5
  txcBit := 6
  rxcBit := 7
  rxcieBit := 7
  rxIrqLine := 18
  statusReset := 0x00#8
  controlReset := 0x00#8
  txcSetOnWrite := true
  statusStoreOther := false
  supportsConsole := true
  supportsFile := true
  supportsPipe := true

/-- FREE VALUE (log 8): does the n-th draw let a read of a host stream with a byte pending succeed? (rule R30: on an arbitrary endpoint failure is a draw) -/
opaque Config.readSucceeds : Nat → Bool

/-- FREE VALUE (log 9): does the n-th draw let the availability of a host stream's pending byte be confirmed? (rule R29: what cannot be confirmed is "not available") -/
opaque Config.availabilityConfirmed : Nat → Bool

/-- FREE VALUE (log 10): does the n-th draw let a host stream take a written byte? (rule R31; no operation of the block reads the answer) -/
opaque Config.writeAccepted : Nat → Bool

/-- FREE VALUE (log 31): what `rx_data` carries while `rx_ok` is false, after n draws. Rule R68 makes the two ports the answer of `RxRead()`, and a failed read has no byte. No operation reads it. -/
opaque Config.rxDataWithoutByte : Nat → Byte

end Sys2Proof
end

