-- ==== Sys2Proof/Syntax.lean ====
section
/-! DEFINITION. The operations of the block as data: one constructor of `Instr` for each row of spec/opcode_table.json (rules R8, R63), and the names of the registers, agents and formats they belong to. -/

namespace Sys2Proof

/-- The three byte registers the block places in the address space (rules R18, R19, R20). -/
inductive Register where
  | status
  | control
  | data
  deriving DecidableEq, Repr

/-- Who performs an operation (rules R9, R111). -/
inductive Agent where
  | busMaster
  | tickScheduler
  | host
  | environment
  deriving DecidableEq, Repr

/-- The operations. The first ten are those of rule R8; `rxArrive` is the pseudo-operation of the environment (rule R67). -/
inductive Instr where
  /-- Rule R70. -/
  | readStatus
  /-- Rule R71. -/
  | writeStatus (v : Byte)
  /-- Rule R72. -/
  | readControl
  /-- Rule R73. -/
  | writeControl (v : Byte)
  /-- Rule R74. -/
  | readData
  /-- Rule R75. -/
  | writeData (v : Byte)
  /-- Rule R80. -/
  | poll
  /-- Rule R88. -/
  | create
  /-- Rule R89; `e` is an index of the endpoint table (rule R62). -/
  | setInputEndpoint (e : BitVec 8)
  /-- Rule R90; `e` is an index of the endpoint table (rule R62). -/
  | setOutputEndpoint (e : BitVec 8)
  /-- Rule R67. -/
  | rxArrive (b : Byte)
  deriving DecidableEq, Repr

end Sys2Proof
end

