-- ==== Sys2Proof/WellFormed.lean ====
section
/-! DEFINITION. Which operations have a word: every operand is a whole byte and every byte is legal (rules R64, R76), except that an endpoint index must name an entry of the endpoint table (rule R63). -/

namespace Sys2Proof

/-- `i` has a stimulus word when the endpoint table has `tableSize` entries (rule R63: the words with an index beyond the table are reserved). -/
def Instr.wellFormed (tableSize : Nat) : Instr → Bool
  | .readStatus | .readControl | .readData | .poll | .create => true
  | .writeStatus _ | .writeControl _ | .writeData _ | .rxArrive _ => true
  | .setInputEndpoint e | .setOutputEndpoint e => decide (e.toNat < tableSize)

/-- The well-formedness of an operation as a proposition. -/
abbrev WellFormed (tableSize : Nat) (i : Instr) : Prop := i.wellFormed tableSize = true

end Sys2Proof
end

