-- ==== Sys2Proof/Decode.lean ====
section
/-! DEFINITION. The decoder of the stimulus word (rules R62, R63, R69), total on the 4096 words and rejecting every reserved word by name, and after it the encoder and the opcode table of rule R63. -/

namespace Sys2Proof

/-- Why a stimulus word is reserved (rule R63). -/
inductive Reserved where
  /-- A bus read whose data field is not zero. -/
  | readWithData
  /-- Register select `0b11`: an address the block does not own (rule R40). -/
  | foreignRegister
  /-- A tick with a non-zero select or data field. -/
  | tickWithOperand
  /-- `create` with a non-zero data field. -/
  | createWithData
  /-- An endpoint index beyond the endpoint table. -/
  | beyondTable
  deriving DecidableEq, Repr

/-- `W[11:10]`: bus read, bus write, tick, host or environment (rule R62). -/
def wordKind (w : StimulusWord) : BitVec 2 := w.extractLsb' 10 2

/-- `W[9:8]`: the register, or the host operation (rule R62). -/
def wordSel (w : StimulusWord) : BitVec 2 := w.extractLsb' 8 2

/-- `W[7:0]`: the operand byte (rule R62). -/
def wordData (w : StimulusWord) : BitVec 8 := w.extractLsb' 0 8

/-- The register a select field stands for; `0b11` stands for none of the three (rule R62). -/
def selectRegister (sel : BitVec 2) : Option Register :=
  if sel = 0b00#2 then some .status
  else if sel = 0b01#2 then some .control
  else if sel = 0b10#2 then some .data
  else none

/-- The read operation of a register (rule R39). -/
def readOf : Register → Instr
  | .status => .readStatus
  | .control => .readControl
  | .data => .readData

/-- The write operation of a register (rule R39). -/
def writeOf (v : Byte) : Register → Instr
  | .status => .writeStatus v
  | .control => .writeControl v
  | .data => .writeData v

/-- Kind `0b00`: a bus read, whose data field must be zero (rule R62). -/
def decodeRead (sel : BitVec 2) (data : BitVec 8) : Except Reserved Instr :=
  match selectRegister sel with
  | none => .error .foreignRegister
  | some r => if data = 0#8 then .ok (readOf r) else .error .readWithData

/-- Kind `0b01`: a bus write of the data byte, used as it stands (rules R59, R62). -/
def decodeWrite (sel : BitVec 2) (data : BitVec 8) : Except Reserved Instr :=
  match selectRegister sel with
  | none => .error .foreignRegister
  | some r => .ok (writeOf data r)

/-- Kind `0b10`: the tick, with both other fields zero (rule R62). -/
def decodeTick (sel : BitVec 2) (data : BitVec 8) : Except Reserved Instr :=
  if sel = 0#2 ∧ data = 0#8 then .ok .poll else .error .tickWithOperand

/-- Kind `0b11`: the operations of the host and of the environment (rule R62). -/
def decodeHost (tableSize : Nat) (sel : BitVec 2) (data : BitVec 8) : Except Reserved Instr :=
  if sel = 0b00#2 then
    if data = 0#8 then .ok .create else .error .createWithData
  else if sel = 0b01#2 then
    if data.toNat < tableSize then .ok (.setInputEndpoint data) else .error .beyondTable
  else if sel = 0b10#2 then
    if data.toNat < tableSize then .ok (.setOutputEndpoint data) else .error .beyondTable
  else .ok (.rxArrive data)

/-- The decoder: a pure function of the word and of the size of the endpoint table the test bench fixed in advance; no register and no mode takes part in it (rules R63, R65, R69). -/
def decode (tableSize : Nat) (w : StimulusWord) : Except Reserved Instr :=
  if wordKind w = 0b00#2 then decodeRead (wordSel w) (wordData w)
  else if wordKind w = 0b01#2 then decodeWrite (wordSel w) (wordData w)
  else if wordKind w = 0b10#2 then decodeTick (wordSel w) (wordData w)
  else decodeHost tableSize (wordSel w) (wordData w)

/-- A stimulus word from its three fields (rule R62). -/
def assemble (kind sel : BitVec 2) (data : BitVec 8) : StimulusWord := kind ++ sel ++ data

/-- The word of each operation (rules R62, R63). -/
def encode : Instr → StimulusWord
  | .readStatus => assemble 0b00#2 0b00#2 0#8
  | .readControl => assemble 0b00#2 0b01#2 0#8
  | .readData => assemble 0b00#2 0b10#2 0#8
  | .writeStatus v => assemble 0b01#2 0b00#2 v
  | .writeControl v => assemble 0b01#2 0b01#2 v
  | .writeData v => assemble 0b01#2 0b10#2 v
  | .poll => assemble 0b10#2 0b00#2 0#8
  | .create => assemble 0b11#2 0b00#2 0#8
  | .setInputEndpoint e => assemble 0b11#2 0b01#2 e
  | .setOutputEndpoint e => assemble 0b11#2 0b10#2 e
  | .rxArrive b => assemble 0b11#2 0b11#2 b

/-- One row of the opcode map of rule R63: the name, the fixed bits and which bits are fixed. -/
structure OpcodeRow where
  mnemonic : String
  fixed : StimulusWord
  mask : StimulusWord
  deriving DecidableEq, Repr

/-- The row of an operation (rule R63). -/
def opcodeRow : Instr → OpcodeRow
  | .readStatus => ⟨"readStatus", 0x000#12, 0xFFF#12⟩
  | .writeStatus _ => ⟨"writeStatus", 0x400#12, 0xF00#12⟩
  | .readControl => ⟨"readControl", 0x100#12, 0xFFF#12⟩
  | .writeControl _ => ⟨"writeControl", 0x500#12, 0xF00#12⟩
  | .readData => ⟨"readData", 0x200#12, 0xFFF#12⟩
  | .writeData _ => ⟨"writeData", 0x600#12, 0xF00#12⟩
  | .poll => ⟨"poll", 0x800#12, 0xFFF#12⟩
  | .create => ⟨"create", 0xC00#12, 0xFFF#12⟩
  | .setInputEndpoint _ => ⟨"setInputEndpoint", 0xD00#12, 0xF00#12⟩
  | .setOutputEndpoint _ => ⟨"setOutputEndpoint", 0xE00#12, 0xF00#12⟩
  | .rxArrive _ => ⟨"rxArrive", 0xF00#12, 0xF00#12⟩

/-- Does `w` have the fixed bits of `row`? -/
def OpcodeRow.fits (row : OpcodeRow) (w : StimulusWord) : Bool := decide (w &&& row.mask = row.fixed)

/-- The name of an operation (rule R66). -/
def Instr.mnemonic (i : Instr) : String := (opcodeRow i).mnemonic

/-- The agent that performs an operation (rules R9, R111, R117). -/
def Instr.agent : Instr → Agent
  | .readStatus | .writeStatus _ | .readControl | .writeControl _ | .readData | .writeData _ => .busMaster
  | .poll => .tickScheduler
  | .create | .setInputEndpoint _ | .setOutputEndpoint _ => .host
  | .rxArrive _ => .environment

/-- The size of an endpoint table every 8-bit index is an index of. -/
def fullTable : Nat := 256

/-- What the decoder reads from a word given as a number; a number beyond 12 bits is no stimulus word (rule R65). The endpoint table is taken as full, so that no index is beyond it; the step uses the size of its own table. -/
def decodeTableWord (_nbits w : Nat) : Option Instr :=
  if w < 4096 then (decode fullTable (BitVec.ofNat 12 w)).toOption else none

end Sys2Proof
end

