-- ==== Sys2Proof/Machine/State.lean ====
section
/-! DEFINITION. The state: the block's record (rule R15), the environment the spec needs beside it (rule R16), the stimuli still to come (rule R48), and the reasons a step can stop. -/

namespace Sys2Proof.Machine

/-- What stands behind the input side of an endpoint. `canonical` is the queue of rule R32; `console`, `file` and `pipe` are the host streams rule R93 names; `other` has no non-blocking availability check and is never supported. -/
inductive InputKind where
  | canonical
  | console
  | file
  | pipe
  | other
  deriving DecidableEq, Repr

/-- What stands behind the output side of an endpoint. `canonical` takes every byte (rule R32), a `host` stream may or may not (rule R31), a `closed` one takes none (rule R97). -/
inductive OutputKind where
  | canonical
  | host
  | closed
  deriving DecidableEq, Repr

/-- One entry of the endpoint table (rules R28, R32): `pending` are the bytes ready to be read, oldest first; `isOpen` says whether the environment may still append, and no step changes it (DESIGN CHOICE, log 30: rule R32 leaves open whether a live stream can close during a run); `received` are the bytes the output side took, oldest first. -/
structure Endpoint where
  inputKind : InputKind
  outputKind : OutputKind
  pending : List Byte
  isOpen : Bool
  received : List Byte
  deriving DecidableEq, Repr

/-- The abstract events of rule R69, with the accesses of rules R42, R43, R44 and R54 in full: a bus access names its address and its bytes. The last three are the environment's (rules R32, R67, R131). -/
inductive Event where
  /-- `MemRead(addr, n)` of the bus master. -/
  | busRead (addr n : Nat)
  /-- `MemWrite(addr, n, v)` of the bus master, `v` given as its `n` bytes. -/
  | busWrite (addr : Nat) (bytes : List Byte)
  /-- An instruction fetch of `n` bytes at `addr`. -/
  | instrFetch (addr n : Nat)
  /-- The scheduler's tick. -/
  | tick
  | create
  | setIn (e : BitVec 8)
  | setOut (e : BitVec 8)
  /-- The script's `bind input [..]`: `setInputEndpoint` of a fresh closed canonical endpoint. -/
  | bindInput (bytes : List Byte)
  /-- A byte arrives at the endpoint `ref`. -/
  | arrive (ref : Nat) (b : Byte)
  /-- The oldest pending byte of the host stream `ref` disappears. -/
  | drain (ref : Nat)
  deriving DecidableEq, Repr

/-- The input strobes of the drawn interface (rule R68); operands are read only while their strobe is active. -/
structure Strobes where
  busAddr : Nat
  busRd : Bool
  busWr : Bool
  busWdata : Byte
  tick : Bool
  create : Bool
  setIn : Option (BitVec 8)
  setOut : Option (BitVec 8)
  deriving DecidableEq, Repr

/-- One stimulus: a stimulus word (rule R62), an abstract event (rule R69), or one sample of the strobes (rule R68). -/
inductive Stimulus where
  | word (w : StimulusWord)
  | event (ev : Event)
  | strobes (p : Strobes)
  deriving DecidableEq, Repr

/-- A condition raised to the host, never to emulated software (rules R12, R99). -/
inductive HostError where
  /-- `ConfigurationError(e)`: the input kind of endpoint `ref` is not supported. -/
  | configurationError (ref : Nat)
  deriving DecidableEq, Repr

/-- What the last step handed out (rules R12 and R68): the byte a read returned, whether an `RxRead()` was made, the byte offered to `TxWrite`, the line requested, and the condition raised to the host. -/
structure Outputs where
  rdata : Option Byte
  rxTake : Bool
  txPut : Option Byte
  irqReq : Option Nat
  raised : Option HostError
  deriving DecidableEq, Repr

/-- No strobe and no result. -/
def Outputs.idle : Outputs where
  rdata := none
  rxTake := false
  txPut := none
  irqReq := none
  raised := none

/-- Why the machine stops with a fault. -/
inductive Fault where
  /-- Raised by every operation but `create` performed before `create` (rule R100, error class c); `op` is the operation's name. Safe: the spec defines no state after it. -/
  | preconditionViolation (op : String)
  /-- Raised by a bus access or fetch that reaches beyond the `ADDR_WIDTH`-bit address space (rule R37). Safe: no such address exists. -/
  | addressOutsideSpace (addr : Nat)
  deriving DecidableEq, Repr

/-- Why a stimulus has no meaning. -/
inductive Refusal where
  /-- Raised by an arm of `exec` that has no meaning yet. Safe. -/
  | notModelled (mnemonic : String)
  /-- Raised by a second `create` (rule R88: "created once", a model refuses it). Safe. -/
  | secondCreate
  /-- Raised by a reserved stimulus word (rule R63: a model refuses it). Safe. -/
  | reservedWord (why : Reserved)
  /-- Raised by a rebind to an index beyond the endpoint table (rule R63: reserved). Safe. -/
  | endpointBeyondTable (e : BitVec 8)
  /-- Raised by an access wider than a byte that covers a register address (rule R42: refused). Safe. -/
  | wideAccess (addr n : Nat)
  /-- Raised by an instruction fetch that covers a register address (rule R54: refused). Safe. -/
  | fetchFromRegister (addr : Nat)
  /-- Raised by an arrival at an endpoint that is closed or not in the table (rules R32, R67: it must be open). Safe. -/
  | endpointNotOpen (ref : Nat)
  /-- Raised by the loss of a byte of an endpoint that is no host stream or holds none (rule R32: a canonical endpoint loses no byte). Safe. -/
  | endpointNotDrainable (ref : Nat)
  /-- Raised by two strobes active at a time (rules R48, R68: no concurrent operations). Safe. -/
  | concurrentStrobes
  deriving DecidableEq, Repr

/-- The state. The block's own record is the first five fields after `cfg` (rule R15); then the environment (rule R16), the collaborators' tables `create` writes (rules R91, R92), and the model's own fields. -/
structure State where
  /-- The parameters (rule R7); no step changes them (log 1). -/
  cfg : Config
  /-- The status register as stored (rule R18). -/
  status : Byte
  /-- The control register (rule R19). -/
  control : Byte
  /-- The bound input endpoint, an index of `endpoints` (rule R28). -/
  inEP : Nat
  /-- The bound output endpoint, an index of `endpoints` (rule R28). -/
  outEP : Nat
  /-- False before `create`, true ever after (rule R34). -/
  created : Bool
  /-- The endpoint table (rules R16, R62). -/
  endpoints : List Endpoint
  /-- Every byte offered, with the output endpoint bound then (rule R31). -/
  txlog : List (Nat × Byte)
  /-- Every line requested (rule R33). -/
  irqlog : List Nat
  /-- The block's entries of the register dispatch table (rules R38, R91). -/
  handlers : List (Nat × Register)
  /-- Is `poll` in the per-tick poll set? (rule R92) -/
  pollEnrolled : Bool
  /-- The stimuli still to come, oldest first: the total order of rule R48 (log 5). -/
  stimuli : List Stimulus
  /-- What the last step handed out (log 21). -/
  out : Outputs
  /-- How many free values have been drawn (log 8). -/
  draws : Nat
  deriving DecidableEq, Repr

/-- Entry 0 of the endpoint table, standard input (rule R62). -/
def standardInput : Nat := 0

/-- Entry 1 of the endpoint table, standard output (rule R62). -/
def standardOutput : Nat := 1

/-- The standard input of `State.reset`: a live canonical queue with nothing pending (rule R32; DESIGN CHOICE, log 7). Its output side is closed. -/
def Endpoint.stdin : Endpoint where
  inputKind := .canonical
  outputKind := .closed
  pending := []
  isOpen := true
  received := []

/-- The standard output of `State.reset`: a canonical sink (rule R32; DESIGN CHOICE, log 7). Its input side has no availability check. -/
def Endpoint.stdout : Endpoint where
  inputKind := .other
  outputKind := .canonical
  pending := []
  isOpen := false
  received := []

/-- The machine before `create`, for given parameters and a given endpoint table (rules R34, R121). The record does not exist yet: its bytes are the reset bytes and its references the defaults (DESIGN CHOICE, log 4). -/
def State.launch (c : Config) (table : List Endpoint) : State where
  cfg := c
  status := c.statusReset
  control := c.controlReset
  inEP := standardInput
  outEP := standardOutput
  created := false
  endpoints := table
  txlog := []
  irqlog := []
  handlers := []
  pollEnrolled := false
  stimuli := []
  out := Outputs.idle
  draws := 0

/-- The state after `create`, the only reset the block has (rules R36, R118), under P0 (log 1), the decisions D4 to D6 (logs 2, 3) and the endpoint table of log 7. -/
def State.reset : State where
  cfg := Config.p0
  status := 0x00#8
  control := 0x00#8
  inEP := standardInput
  outEP := standardOutput
  created := true
  endpoints := [Endpoint.stdin, Endpoint.stdout]
  txlog := []
  irqlog := []
  handlers := [(0x00C0, .status), (0x00C1, .control), (0x00C6, .data)]
  pollEnrolled := true
  stimuli := []
  out := Outputs.idle
  draws := 0

end Sys2Proof.Machine
end

