-- ==== Sys2Proof/Machine/Flags.lean ====
section
/-! DEFINITION. The masks of rule R7, the byte operators of rule R11, and every flag computation of the two registers: forced DRE, write-1-to-clear TXC, the stored bits, and the three flags as Booleans. -/

namespace Sys2Proof.Machine

/-- `1 << i`, the mask of one bit (rule R7). -/
def bitMask (i : Fin 8) : Byte := 1#8 <<< i.val

/-- `isset(b, M) = (b & M) != 0` (rule R11). -/
def isset (b m : Byte) : Bool := decide (b &&& m ≠ 0#8)

/-- `set(b, M) = b | M` (rule R11). -/
def setBits (b m : Byte) : Byte := b ||| m

/-- `clear(b, M) = b & ~M` (rule R11). -/
def clearBits (b m : Byte) : Byte := b &&& ~~~m

/-- `DRE_MASK` (rule R7). -/
def dreMask (c : Config) : Byte := bitMask c.dreBit

/-- `TXC_MASK` (rule R7). -/
def txcMask (c : Config) : Byte := bitMask c.txcBit

/-- `RXC_MASK` (rule R7). -/
def rxcMask (c : Config) : Byte := bitMask c.rxcBit

/-- `RXCIE_MASK` (rule R7). -/
def rxcieMask (c : Config) : Byte := bitMask c.rxcieBit

/-- `FLAG_MASK`: the three status flags (rule R7). -/
def flagMask (c : Config) : Byte := dreMask c ||| txcMask c ||| rxcMask c

/-- `OTHER_MASK`: the five status bits that are no flag (rule R7). -/
def otherMask (c : Config) : Byte := 0xFF#8 &&& ~~~flagMask c

/-- Is `TransmitComplete` set? (rule R22) -/
def txcSet (s : State) : Bool := isset s.status (txcMask s.cfg)

/-- Is `ReceiveComplete` set? (rule R23) -/
def rxcSet (s : State) : Bool := isset s.status (rxcMask s.cfg)

/-- Is `ReceiveInterruptEnable` set? (rule R25) -/
def rxcieSet (s : State) : Bool := isset s.control (rxcieMask s.cfg)

/-- The byte a status read returns: the stored bits with DRE forced (rules R24, R70). -/
def statusRead (s : State) : Byte := s.status ||| dreMask s.cfg

/-- Write-1-to-clear of TXC (rule R71, first statement). -/
def clearTxcIfWritten (c : Config) (status v : Byte) : Byte :=
  if isset v (txcMask c) then clearBits status (txcMask c) else status

/-- Storage of the five other bits, only under `STATUS_STORE_OTHER` (rules R27, R71, second statement). -/
def storeOtherBits (c : Config) (status v : Byte) : Byte :=
  if c.statusStoreOther then (status &&& ~~~otherMask c) ||| (v &&& otherMask c) else status

/-- The stored status after a write of `v` (rule R71). -/
def statusWritten (c : Config) (status v : Byte) : Byte :=
  storeOtherBits c (clearTxcIfWritten c status v) v

/-- The stored status after a byte was handed over: TXC set under `TXC_SET_ON_WRITE` (rules R22, R75). -/
def statusAfterTransmit (c : Config) (status : Byte) : Byte :=
  if c.txcSetOnWrite then setBits status (txcMask c) else status

end Sys2Proof.Machine
end

