-- ==== Sys2Proof/Machine/Operands.lean ====
section
/-! DEFINITION. The operand forms: an endpoint reference (rules R28, R62), the support of an input kind (rule R93), and a bus address as the operand of an access (rules R37 to R44). -/

namespace Sys2Proof.Machine

/-- The endpoint a reference names, if the table has it (rule R28). -/
def endpointAt (s : State) (ref : Nat) : Option Endpoint := s.endpoints[ref]?

/-- `supportedInputKind` (rules R89, R93): the canonical endpoint always, a host stream if the build supports its kind, and no kind without an availability check. -/
def supportedInputKind (c : Config) : InputKind → Bool
  | .canonical => true
  | .console => c.supportsConsole
  | .file => c.supportsFile
  | .pipe => c.supportsPipe
  | .other => false

/-- May `ref` be bound as input? (rule R93) -/
def inputSupported (s : State) (ref : Nat) : Bool :=
  match endpointAt s ref with
  | some ep => supportedInputKind s.cfg ep.inputKind
  | none => false

/-- Is the endpoint one whose reads can fail by a draw (rule R30), that is any supported kind but the canonical one? -/
def isHostStream : InputKind → Bool
  | .console | .file | .pipe => true
  | .canonical | .other => false

/-- Is the bound input endpoint a host stream? -/
def boundToHostStream (s : State) : Bool :=
  match endpointAt s s.inEP with
  | some ep => isHostStream ep.inputKind
  | none => false

/-- The bytes pending at the bound input endpoint, oldest first (rule R32). -/
def pendingInput (s : State) : List Byte :=
  match endpointAt s s.inEP with
  | some ep => ep.pending
  | none => []

/-- The address of a register (rule R39). -/
def addressOf (c : Config) : Register → Nat
  | .status => c.addrStatus
  | .control => c.addrControl
  | .data => c.addrData

/-- The address map, in the order of `create`'s registrations (rules R39, R88). -/
def addressMap (c : Config) : List (Nat × Register) :=
  [(c.addrStatus, .status), (c.addrControl, .control), (c.addrData, .data)]

/-- Do the `n` bytes at `addr` all lie in the `ADDR_WIDTH`-bit space? (rule R37) -/
def inAddressSpace (c : Config) (addr n : Nat) : Bool := decide (addr + n ≤ 2 ^ c.addrWidth)

/-- Do the `n` bytes at `addr` cover one of the three register addresses? (rules R42, R54) -/
def coversRegister (c : Config) (addr n : Nat) : Bool :=
  (addressMap c).any fun entry => decide (addr ≤ entry.1 ∧ entry.1 < addr + n)

/-- The register whose handlers the dispatch table holds for `addr` (rule R38). -/
def handlerAt (s : State) (addr : Nat) : Option Register := s.handlers.lookup addr

end Sys2Proof.Machine
end

