-- ==== Sys2Proof/Machine/Ops.lean ====
section
/-! DEFINITION. The named operations the meanings are made of: the endpoint primitives (rules R29 to R31), the interrupt request (rule R103), the registrations (rules R91, R92), the conditions raised to the host (rules R99, R100), and the environment's own acts (rules R32, R67, R131). The block takes no exception and returns from none (rules R106, R110): what it does instead is `requestInterrupt` and `raiseConfigurationError`. -/

namespace Sys2Proof.Machine

/-- The outcome of one step of this machine. -/
abbrev Result := Host.Outcome State Fault Refusal

/-- Every step starts with nothing handed out: results and strobes last one step (rule R68: a strobe is one operation). -/
def releaseOutputs (s : State) : State := { s with out := Outputs.idle }

/-- `return b`: the byte a read hands back on the bus (rule R12). -/
def answer (b : Byte) (s : State) : State := { s with out := { s.out with rdata := some b } }

/-- Apply `f` to one endpoint of the table. -/
def updateEndpoint (ref : Nat) (f : Endpoint → Endpoint) (s : State) : State :=
  { s with endpoints := s.endpoints.modify ref f }

/-- One free value has been drawn. -/
def spendDraw (s : State) : State := { s with draws := s.draws + 1 }

/-- `RxAvail()` (rule R29). On the canonical endpoint it is "the queue is not empty" (rule R32); on a host stream a pending byte is available if its availability can be confirmed, which is a free value; an endpoint without a check is never available. -/
def rxAvail (s : State) : Bool :=
  match endpointAt s s.inEP with
  | none => false
  | some ep =>
    match ep.inputKind with
    | .canonical => !ep.pending.isEmpty
    | .console | .file | .pipe => !ep.pending.isEmpty && Config.availabilityConfirmed s.draws
    | .other => false

/-- The state after `RxAvail()`: no data byte is touched (rule R29), and on a host stream one draw is spent. -/
def afterRxAvail (s : State) : State := if boundToHostStream s then spendDraw s else s

/-- The answer of `RxRead()` (rule R30): the oldest pending byte, or nothing where the read fails. On the canonical endpoint it fails exactly when no byte is pending (rule R32); on a host stream also when the draw says so. -/
def rxAnswer (s : State) : Option Byte :=
  match endpointAt s s.inEP with
  | none => none
  | some ep =>
    match ep.inputKind with
    | .canonical => ep.pending.head?
    | .console | .file | .pipe => if Config.readSucceeds s.draws then ep.pending.head? else none
    | .other => none

/-- Remove the oldest pending byte of an endpoint (rule R30). -/
def Endpoint.dropOldest (ep : Endpoint) : Endpoint := { ep with pending := ep.pending.tail }

/-- The state after `RxRead()`: a byte leaves the endpoint exactly when one was answered (rule R30), `rx_take` was strobed (rule R68), and on a host stream one draw is spent. -/
def afterRxRead (s : State) : State :=
  let taken := match rxAnswer s with
    | some _ => updateEndpoint s.inEP Endpoint.dropOldest s
    | none => s
  let drawn := if boundToHostStream s then spendDraw taken else taken
  { drawn with out := { drawn.out with rxTake := true } }

/-- Does the bound output endpoint take the byte? (rules R31, R97; on a host stream a free value) -/
def txAccepted (s : State) : Bool :=
  match endpointAt s s.outEP with
  | none => false
  | some ep =>
    match ep.outputKind with
    | .canonical => true
    | .host => Config.writeAccepted s.draws
    | .closed => false

/-- Is the bound output endpoint a host stream, whose acceptance is a draw? -/
def outputDraws (s : State) : Bool :=
  match endpointAt s s.outEP with
  | some ep => decide (ep.outputKind = .host)
  | none => false

/-- Append a byte to what an output endpoint received (rule R32). -/
def Endpoint.receive (b : Byte) (ep : Endpoint) : Endpoint := { ep with received := ep.received ++ [b] }

/-- `TxWrite(b)` (rule R31): the byte is logged as offered whether or not the endpoint takes it, and `tx_put` is strobed with it (rule R68). -/
def txWrite (b : Byte) (s : State) : State :=
  let given := if txAccepted s then updateEndpoint s.outEP (Endpoint.receive b) s else s
  let drawn := if outputDraws s then spendDraw given else given
  { drawn with txlog := drawn.txlog ++ [(drawn.outEP, b)], out := { drawn.out with txPut := some b } }

/-- `RequestInterrupt(line)` (rules R33, R103): one element appended to the log and one pulse; nothing is held, and nothing takes it back (rule R109). -/
def requestInterrupt (line : Nat) (s : State) : State :=
  { s with irqlog := s.irqlog ++ [line], out := { s.out with irqReq := some line } }

/-- `registerHandler(address, readFn, writeFn)` for one register (rule R91). -/
def registerHandler (addr : Nat) (r : Register) (s : State) : State :=
  { s with handlers := s.handlers ++ [(addr, r)] }

/-- `registerPollable(poll)` (rule R92). -/
def registerPollable (s : State) : State := { s with pollEnrolled := true }

/-- `raise ConfigurationError(ref)` (rules R93, R99): the host sees it, and nothing else changes. -/
def raiseConfigurationError (ref : Nat) (s : State) : State :=
  { s with out := { s.out with raised := some (.configurationError ref) } }

/-- Every operation but `create` requires `created` (rules R34, R100): before it, it is misuse and the launch faults. -/
def requireCreated (op : String) (s : State) (result : Result) : Result :=
  if s.created then result else .fault (.preconditionViolation op)

/-- `inEP <- ref` after the check of the kind (rules R89, R93). -/
def rebindInput (ref : Nat) (s : State) : State :=
  if inputSupported s ref then { s with inEP := ref } else raiseConfigurationError ref s

/-- `outEP <- ref` (rule R90). -/
def rebindOutput (ref : Nat) (s : State) : State := { s with outEP := ref }

/-- A byte joins the end of an endpoint's pending input (rule R32). -/
def Endpoint.append (b : Byte) (ep : Endpoint) : Endpoint := { ep with pending := ep.pending ++ [b] }

/-- The environment makes a byte arrive at `ref`, which must be open (rules R32, R67). -/
def arriveAt (ref : Nat) (b : Byte) (s : State) : Result :=
  match endpointAt s ref with
  | some ep =>
    if ep.isOpen then .next (updateEndpoint ref (Endpoint.append b) s) else .refused (.endpointNotOpen ref)
  | none => .refused (.endpointNotOpen ref)

/-- The oldest pending byte of a host stream disappears other than through `readData` (rule R131). A canonical endpoint loses no byte so (rule R32). -/
def drainAt (ref : Nat) (s : State) : Result :=
  match endpointAt s ref with
  | some ep =>
    if isHostStream ep.inputKind && !ep.pending.isEmpty then .next (updateEndpoint ref Endpoint.dropOldest s)
    else .refused (.endpointNotDrainable ref)
  | none => .refused (.endpointNotDrainable ref)

/-- A fresh closed canonical endpoint holding `bytes` (rule R67, "a finite input source containing bytes"). -/
def finiteSource (bytes : List Byte) : Endpoint where
  inputKind := .canonical
  outputKind := .closed
  pending := bytes
  isOpen := false
  received := []

/-- The script's `bind input [..]` (rule R67): the fresh source joins the end of the table and is bound. -/
def bindFreshInput (bytes : List Byte) (s : State) : Result :=
  requireCreated "setInputEndpoint" s
    (.next (rebindInput s.endpoints.length { s with endpoints := s.endpoints ++ [finiteSource bytes] }))

end Sys2Proof.Machine
end

