-- ==== Sys2Proof/Machine/Bus.lean ====
section
/-! DEFINITION. From a stimulus to what it stands for: the decoder of stimulus words applied to this machine's endpoint table (rule R63), the dispatch of bus accesses (rules R38 to R44, R54), the tick (rule R60), and the strobes (rule R68). -/

namespace Sys2Proof.Machine

/-- What a stimulus stands for (rule R69). -/
inductive Resolution where
  /-- One of the operations. -/
  | operation (i : Instr)
  /-- `bind input [..]` (rule R67). -/
  | bindInput (bytes : List Byte)
  /-- An arrival at an endpoint (rule R32). -/
  | arrival (ref : Nat) (b : Byte)
  /-- The loss of a pending byte (rule R131). -/
  | loss (ref : Nat)
  /-- Not this block (rules R40, R69). -/
  | notThisBlock
  | refuse (r : Refusal)
  | stop (f : Fault)
  deriving DecidableEq, Repr

/-- A stimulus word (rules R62, R63): reserved words are refused. -/
def resolveWord (s : State) (w : StimulusWord) : Resolution :=
  match decode s.endpoints.length w with
  | .ok i => .operation i
  | .error why => .refuse (.reservedWord why)

/-- The common part of every bus access of `n` bytes at `addr`: outside the address space there is nothing (rule R37), one byte goes to its handler if the dispatch table has one (rules R38, R43, R44), a wider access is refused where it covers a register (rule R42), and everything else is not this block (rule R40). -/
def resolveAccess (s : State) (addr n : Nat) (byteAccess : Register → Resolution) : Resolution :=
  if inAddressSpace s.cfg addr n then
    if n = 1 then
      match handlerAt s addr with
      | some r => byteAccess r
      | none => .notThisBlock
    else if coversRegister s.cfg addr n then .refuse (.wideAccess addr n)
    else .notThisBlock
  else .stop (.addressOutsideSpace addr)

/-- `MemRead(addr, n)` (rule R43). -/
def resolveBusRead (s : State) (addr n : Nat) : Resolution :=
  resolveAccess s addr n fun r => .operation (readOf r)

/-- `MemWrite(addr, n, v)` with `v` as its bytes (rule R44). -/
def resolveBusWrite (s : State) (addr : Nat) (bytes : List Byte) : Resolution :=
  resolveAccess s addr bytes.length fun r => .operation (writeOf (bytes.headD 0#8) r)

/-- An instruction fetch (rule R54): refused where it covers a register address, and not this block elsewhere. -/
def resolveFetch (s : State) (addr n : Nat) : Resolution :=
  if inAddressSpace s.cfg addr n then
    if coversRegister s.cfg addr n then .refuse (.fetchFromRegister addr) else .notThisBlock
  else .stop (.addressOutsideSpace addr)

/-- The tick: the scheduler invokes the `poll` the block enrolled, and nothing before it is enrolled (rules R60, R92, R100). -/
def resolveTick (s : State) : Resolution := if s.pollEnrolled then .operation .poll else .notThisBlock

/-- An abstract event (rule R69). -/
def resolveEvent (s : State) : Event → Resolution
  | .busRead addr n => resolveBusRead s addr n
  | .busWrite addr bytes => resolveBusWrite s addr bytes
  | .instrFetch addr n => resolveFetch s addr n
  | .tick => resolveTick s
  | .create => .operation .create
  | .setIn e => .operation (.setInputEndpoint e)
  | .setOut e => .operation (.setOutputEndpoint e)
  | .bindInput bytes => .bindInput bytes
  | .arrive ref b => .arrival ref b
  | .drain ref => .loss ref

/-- The events whose strobes are active in one sample (rule R68). -/
def activeEvents (p : Strobes) : List Event :=
  (if p.busRd then [.busRead p.busAddr 1] else []) ++
  (if p.busWr then [.busWrite p.busAddr [p.busWdata]] else []) ++
  (if p.tick then [.tick] else []) ++
  (if p.create then [.create] else []) ++
  (match p.setIn with | some e => [.setIn e] | none => []) ++
  (match p.setOut with | some e => [.setOut e] | none => [])

/-- One sample of the strobes: at most one may be active (rules R48, R68); none active is no operation. -/
def resolveStrobes (s : State) (p : Strobes) : Resolution :=
  match activeEvents p with
  | [] => .notThisBlock
  | [ev] => resolveEvent s ev
  | _ :: _ :: _ => .refuse .concurrentStrobes

/-- What a stimulus stands for on this machine. -/
def resolve (s : State) : Stimulus → Resolution
  | .word w => resolveWord s w
  | .event ev => resolveEvent s ev
  | .strobes p => resolveStrobes s p

/-- `rx_avail` of the drawn interface: the level the block sees (rule R68). -/
def rxAvailPort (s : State) : Bool := rxAvail s

/-- `rx_data` and `rx_ok` of the drawn interface: the answer a read would get (rule R68). While `rx_ok` is false the spec gives `rx_data` no value, and the model leaves it a free value (DESIGN CHOICE, log 31); the 0x00 that `readData` then returns is the block's own (rule R74). -/
def rxDataPort (s : State) : Byte × Bool :=
  match rxAnswer s with
  | some b => (b, true)
  | none => (Config.rxDataWithoutByte s.draws, false)

end Sys2Proof.Machine
end

