-- ==== Sys2Proof/Machine/Environment.lean ====
section
/-! DEFINITION. The pseudo-operation of the environment (rule R67): no operation of the block, so it does not require `created`. -/

namespace Sys2Proof.Machine

/-- Rule R67: the byte joins the pending input of the currently bound input endpoint, which must be open. -/
def execRxArrive (b : Byte) (s : State) : Result := arriveAt s.inEP b (releaseOutputs s)

end Sys2Proof.Machine
end

