-- ==== Sys2Proof/Machine/HostConfig.lean ====
section
/-! DEFINITION. The operations of the host (rules R88 to R90). -/

namespace Sys2Proof.Machine

/-- The three registrations of the register handlers and the one of `poll` (rules R88, R91, R92). -/
def registerBlock (s : State) : State :=
  registerPollable
    (registerHandler s.cfg.addrData .data
      (registerHandler s.cfg.addrControl .control
        (registerHandler s.cfg.addrStatus .status s)))

/-- The record of a freshly created block (rules R36, R88): reset bytes, the standard streams bound, both logs empty. -/
def initialRecord (s : State) : State :=
  { s with
    status := s.cfg.statusReset
    control := s.cfg.controlReset
    inEP := standardInput
    outEP := standardOutput
    txlog := []
    irqlog := []
    created := true }

/-- Rule R88. A second `create` is refused; a standard input of an unsupported kind is a `ConfigurationError` (rule R99) that leaves the block uncreated. -/
def execCreate (s : State) : Result :=
  if s.created then .refused .secondCreate
  else if inputSupported s standardInput then .next (registerBlock (initialRecord (releaseOutputs s)))
  else .next (raiseConfigurationError standardInput (releaseOutputs s))

/-- Rule R89; an index beyond the endpoint table is reserved (rule R63). -/
def execSetInputEndpoint (e : BitVec 8) (s : State) : Result :=
  requireCreated "setInputEndpoint" s
    (if e.toNat < s.endpoints.length then .next (rebindInput e.toNat (releaseOutputs s))
     else .refused (.endpointBeyondTable e))

/-- Rule R90; an index beyond the endpoint table is reserved (rule R63). -/
def execSetOutputEndpoint (e : BitVec 8) (s : State) : Result :=
  requireCreated "setOutputEndpoint" s
    (if e.toNat < s.endpoints.length then .next (rebindOutput e.toNat (releaseOutputs s))
     else .refused (.endpointBeyondTable e))

end Sys2Proof.Machine
end

