-- ==== Sys2Proof/Machine/Poll.lean ====
section
/-! DEFINITION. The operation of the tick scheduler (rule R80), edge-triggered (rule R82). -/

namespace Sys2Proof.Machine

/-- Rule R80, input available: RXC is read, then set, and one request is made exactly if it was clear and RXCIE is set (rules R82, R102). -/
def detectInput (s : State) : State :=
  let detected := { s with status := setBits s.status (rxcMask s.cfg) }
  if !rxcSet s && rxcieSet s then requestInterrupt s.cfg.rxIrqLine detected else detected

/-- Rule R80: the availability check, then `detectInput`, or nothing at all. -/
def execPoll (s : State) : Result :=
  requireCreated "poll" s
    (.next
      (let checked := afterRxAvail (releaseOutputs s)
       if rxAvail s then detectInput checked else checked))

end Sys2Proof.Machine
end

