-- ==== Sys2Proof/Machine/RegisterAccess.lean ====
section
/-! DEFINITION. The six operations of the bus master (rules R70 to R75). None changes `control` but `writeControl`, none changes the endpoint references, none appends to `irqlog`, and each requires `created` (opening paragraph of 40_register_access.md). -/

namespace Sys2Proof.Machine

/-- Rule R70: returns the stored bits with DRE forced; no side effect. -/
def execReadStatus (s : State) : Result :=
  requireCreated "readStatus" s (.next (answer (statusRead s) (releaseOutputs s)))

/-- Rule R71: write-1-to-clear on TXC; the five other bits only under `STATUS_STORE_OTHER`. -/
def execWriteStatus (v : Byte) (s : State) : Result :=
  requireCreated "writeStatus" s
    (.next { releaseOutputs s with status := statusWritten s.cfg s.status v })

/-- Rule R72: returns the stored byte verbatim. -/
def execReadControl (s : State) : Result :=
  requireCreated "readControl" s (.next (answer s.control (releaseOutputs s)))

/-- Rule R73: stores the byte verbatim. -/
def execWriteControl (v : Byte) (s : State) : Result :=
  requireCreated "writeControl" s (.next { releaseOutputs s with control := v })

/-- Rule R74, RXC set: first the flag is cleared, then exactly one `RxRead()` is made; a failed read returns 0x00 (rule R97). -/
def consumeByte (s : State) : State :=
  let cleared := { s with status := clearBits s.status (rxcMask s.cfg) }
  answer ((rxAnswer cleared).getD 0x00#8) (afterRxRead cleared)

/-- Rule R74: with RXC clear it returns 0x00 and makes no `RxRead()`. -/
def execReadData (s : State) : Result :=
  requireCreated "readData" s
    (.next (if rxcSet s then consumeByte (releaseOutputs s) else answer 0x00#8 (releaseOutputs s)))

/-- Rule R75: one `TxWrite(v)`, its outcome not examined, then TXC under `TXC_SET_ON_WRITE`. -/
def execWriteData (v : Byte) (s : State) : Result :=
  requireCreated "writeData" s
    (.next { txWrite v (releaseOutputs s) with status := statusAfterTransmit s.cfg s.status })

end Sys2Proof.Machine
end

