-- ==== Sys2Proof/Machine/Dispatch.lean ====
section
/-! DEFINITION. exec: one arm per operation, each one call of its meaning. -/

namespace Sys2Proof.Machine

def exec (i : Instr) (s : State) : Host.Outcome State Fault Refusal :=
  match i with
  | .readStatus => Sys2Proof.Machine.execReadStatus s
  | .writeStatus v => Sys2Proof.Machine.execWriteStatus v s
  | .readControl => Sys2Proof.Machine.execReadControl s
  | .writeControl v => Sys2Proof.Machine.execWriteControl v s
  | .readData => Sys2Proof.Machine.execReadData s
  | .writeData v => Sys2Proof.Machine.execWriteData v s
  | .poll => Sys2Proof.Machine.execPoll s
  | .create => Sys2Proof.Machine.execCreate s
  | .setInputEndpoint e => Sys2Proof.Machine.execSetInputEndpoint e s
  | .setOutputEndpoint e => Sys2Proof.Machine.execSetOutputEndpoint e s
  | .rxArrive b => Sys2Proof.Machine.execRxArrive b s

end Sys2Proof.Machine
end

