-- ==== Sys2Proof/Machine/Step.lean ====
section
/-! DEFINITION. One step: the oldest stimulus is taken, resolved and performed whole (rules R47 to R49). -/

namespace Sys2Proof.Machine

/-- Perform what a stimulus stands for. An access that is not this block's changes nothing of it (rule R40). -/
def perform (r : Resolution) (s : State) : Host.Outcome State Fault Refusal :=
  match r with
  | .operation i => exec i s
  | .bindInput bytes => bindFreshInput bytes (releaseOutputs s)
  | .arrival ref b => arriveAt ref b (releaseOutputs s)
  | .loss ref => drainAt ref (releaseOutputs s)
  | .notThisBlock => .next (releaseOutputs s)
  | .refuse why => .refused why
  | .stop why => .fault why

/-- One step. The block never acts of its own accord (rule R9): with no stimulus the step only ends the strobes of the step before (log 5). -/
def step (s : State) : Host.Outcome State Fault Refusal :=
  match s.stimuli with
  | [] => .next (releaseOutputs s)
  | stim :: rest => perform (resolve s stim) { s with stimuli := rest }

/-- `s` with the stimulus word `w` as the next stimulus (log 5); the bits of `w` above the 12 of a stimulus word are zero and dropped. -/
def State.withFetchWord (s : State) (_nbits w : Nat) : State :=
  { s with stimuli := .word (BitVec.ofNat 12 w) :: s.stimuli }

end Sys2Proof.Machine
end

