-- ==== Sys2Proof/Safety.lean ====
section
/-! DEFINITION. What claims are stated in: the invariant every step keeps, and sequences of operations with what they hand out, consume and request, and infinite runs with the weak fairness of `poll`. -/

namespace Sys2Proof.Machine

/-- Both standard entries exist, both references name entries, and the bound input is of a supported kind once the block exists (rules R36, R62, R93: `poll` never meets an unsupported kind). -/
abbrev EndpointsBound (s : State) : Prop :=
  standardOutput < s.endpoints.length ∧ s.inEP < s.endpoints.length ∧ s.outEP < s.endpoints.length ∧
  (s.created = true → inputSupported s s.inEP = true)

/-- Once created, the dispatch table holds the address map and `poll` is enrolled (rules R39, R91, R92). -/
abbrev CollaboratorsAgree (s : State) : Prop :=
  s.created = true → s.handlers = addressMap s.cfg ∧ s.pollEnrolled = true

/-- Before `create` nothing is registered and nothing has been offered or requested (rules R16, R91, R100). -/
abbrev NothingBeforeCreate (s : State) : Prop :=
  s.created = false → s.handlers = [] ∧ s.pollEnrolled = false ∧ s.txlog = [] ∧ s.irqlog = []

/-- The stored DRE bit keeps its reset value (rule R24), the five other bits do unless they are stored (rule R27), and TXC can only be set if the reset or `TXC_SET_ON_WRITE` sets it (rule R22). -/
abbrev ReservedBitsKept (s : State) : Prop :=
  s.created = true →
    s.status &&& dreMask s.cfg = s.cfg.statusReset &&& dreMask s.cfg ∧
    (s.cfg.statusStoreOther = false → s.status &&& otherMask s.cfg = s.cfg.statusReset &&& otherMask s.cfg) ∧
    (s.cfg.txcSetOnWrite = false → txcSet s = true → isset s.cfg.statusReset (txcMask s.cfg) = true)

/-- Every request is on the one line (rule R101), and every byte offered went to an entry of the table (rule R31). -/
abbrev LogsSound (s : State) : Prop :=
  (∀ line ∈ s.irqlog, line = s.cfg.rxIrqLine) ∧ (∀ entry ∈ s.txlog, entry.1 < s.endpoints.length)

/-- What the last step handed out agrees with the state it left: a request pulse is out only with RXC and RXCIE set and as the newest entry of the log (rules R102, R103), a byte put out is the newest entry of its log (rule R31), and a `ConfigurationError` names an unsupported input (rule R93). -/
abbrev OutputsSound (s : State) : Prop :=
  (s.out.irqReq = none ∨
    (s.out.irqReq = some s.cfg.rxIrqLine ∧ s.irqlog.getLast? = some s.cfg.rxIrqLine ∧
      rxcSet s = true ∧ rxcieSet s = true)) ∧
  s.out.txPut.all (fun b => s.txlog.getLast? == some (s.outEP, b)) = true ∧
  s.out.raised.all (fun | .configurationError ref => !inputSupported s ref) = true

/-- The invariant of the machine. -/
abbrev State.Inv (s : State) : Prop :=
  s.cfg.WF ∧ EndpointsBound s ∧ CollaboratorsAgree s ∧ NothingBeforeCreate s ∧ ReservedBitsKept s ∧
  LogsSound s ∧ OutputsSound s

/-- Perform operations one after the other (rule R48); `none` as soon as one does not answer a next state. -/
def execAll : List Instr → State → Option State
  | [], s => some s
  | i :: rest, s =>
    match exec i s with
    | .next t => execAll rest t
    | .fault _ => none
    | .refused _ => none

/-- The bytes the `readData` operations of a sequence hand back, in order (rule R74). -/
def handedBack : List Instr → State → List Byte
  | [], _ => []
  | i :: rest, s =>
    match exec i s with
    | .next t => (if i = .readData then t.out.rdata.toList else []) ++ handedBack rest t
    | .fault _ => []
    | .refused _ => []

/-- The byte an operation takes from the bound input endpoint: only a `readData` that finds RXC set takes one, and only if the read succeeds (rule R74). -/
def takenBy (i : Instr) (s : State) : List Byte :=
  if i = .readData ∧ rxcSet s = true then (rxAnswer s).toList else []

/-- The bytes a sequence of operations takes from the input, in order. -/
def takenByAll : List Instr → State → List Byte
  | [], _ => []
  | i :: rest, s =>
    match exec i s with
    | .next t => takenBy i s ++ takenByAll rest t
    | .fault _ => []
    | .refused _ => []

/-- How many `readData` operations of a sequence find RXC set. -/
def receivedReads : List Instr → State → Nat
  | [], _ => 0
  | i :: rest, s =>
    match exec i s with
    | .next t => (if i = .readData ∧ rxcSet s = true then 1 else 0) + receivedReads rest t
    | .fault _ => 0
    | .refused _ => 0

/-- The bytes the environment makes arrive in a sequence, in order (rule R67). -/
def arrivals : List Instr → List Byte
  | [] => []
  | .rxArrive b :: rest => b :: arrivals rest
  | _ :: rest => arrivals rest

/-- The bytes written to the data register in a sequence, in order (rule R75). -/
def transmissions : List Instr → List Byte
  | [] => []
  | .writeData b :: rest => b :: transmissions rest
  | _ :: rest => transmissions rest

/-- `n` rounds of (`poll` detects, `readData` consumes) (rule R84). -/
def receiveRounds : Nat → List Instr
  | 0 => []
  | n + 1 => .poll :: .readData :: receiveRounds n

/-- Does the operation change the input binding? (rule R35, I9) -/
def bindsInput : Instr → Bool
  | .create | .setInputEndpoint _ => true
  | .readStatus | .writeStatus _ | .readControl | .writeControl _ | .readData | .writeData _ | .poll
  | .setOutputEndpoint _ | .rxArrive _ => false

/-- Does the operation change the output binding? (rule R35, I9) -/
def bindsOutput : Instr → Bool
  | .create | .setOutputEndpoint _ => true
  | .readStatus | .writeStatus _ | .readControl | .writeControl _ | .readData | .writeData _ | .poll
  | .setInputEndpoint _ | .rxArrive _ => false

/-- An infinite run: the agents issue `feed n` as the n-th stimulus, and every step answers a next state (rules R48, R49, R52). The stimuli are any: words, events and strobes, in any order. -/
def InfiniteRun (feed : Nat → Stimulus) (run : Nat → State) : Prop :=
  ∀ n, step { run n with stimuli := [feed n] } = .next (run (n + 1))

/-- The weak fairness of `poll`, the one liveness assumption (rules R52, R135): from every point of the run on, `poll` is performed again; since `poll` on a created block is always enabled (rule R132), this is what weak fairness asks. It is a premise of claims that something eventually happens and of no other. -/
def PollWeaklyFair (feed : Nat → Stimulus) (run : Nat → State) : Prop :=
  ∀ n, ∃ m, n ≤ m ∧ resolve (run m) (feed m) = .operation .poll

end Sys2Proof.Machine
end

