-- ==== Sys2Proof/Certificates/Slice0/Obligations.lean ====
section
/-! DEFINITION. The statements for the provers. Each docstring names the rule of spec/ it formalises. -/

open Sys2Proof Sys2Proof.Machine

/-! ### Encoding (rules R62, R63, R65) -/

/-- Rules R62, R63: the word of every operation with an operand the encoding admits decodes to that operation, for every size of the endpoint table. -/
def Obligations.EncodedOperationDecodesBack : Prop :=
  ∀ (n : Nat) (i : Instr), WellFormed n i → decode n (encode i) = .ok i

/-- Rule R63: every decoded word is the word of exactly the operation it decodes to, and that operation is well formed. -/
def Obligations.DecodedWordEncodesBack : Prop :=
  ∀ (n : Nat) (w : StimulusWord) (i : Instr), decode n w = .ok i → encode i = w ∧ WellFormed n i

/-- Rule R63: a decoded word has the fixed bits of its operation's row, and no word has the fixed bits of two rows. -/
def Obligations.OpcodeRowsDoNotOverlap : Prop :=
  (∀ (n : Nat) (w : StimulusWord) (i : Instr), decode n w = .ok i → (opcodeRow i).fits w = true) ∧
  (∀ (i j : Instr) (w : StimulusWord),
    (opcodeRow i).fits w = true → (opcodeRow j).fits w = true → opcodeRow i = opcodeRow j)

/-- Rule R63, the whole map in its own ranges: what each word decodes to, and that every reserved word is an error of the decoder and is refused by the step. -/
def Obligations.OpcodeMapAndReservedWords : Prop :=
  ∀ (n : Nat) (w : StimulusWord),
    (w = 0x000#12 → decode n w = .ok .readStatus) ∧
    (w = 0x100#12 → decode n w = .ok .readControl) ∧
    (w = 0x200#12 → decode n w = .ok .readData) ∧
    (∀ v : Byte, w = 0x400#12 ||| v.setWidth 12 → decode n w = .ok (.writeStatus v)) ∧
    (∀ v : Byte, w = 0x500#12 ||| v.setWidth 12 → decode n w = .ok (.writeControl v)) ∧
    (∀ v : Byte, w = 0x600#12 ||| v.setWidth 12 → decode n w = .ok (.writeData v)) ∧
    (w = 0x800#12 → decode n w = .ok .poll) ∧
    (w = 0xC00#12 → decode n w = .ok .create) ∧
    (∀ e : BitVec 8, w = 0xD00#12 ||| e.setWidth 12 → e.toNat < n → decode n w = .ok (.setInputEndpoint e)) ∧
    (∀ e : BitVec 8, w = 0xE00#12 ||| e.setWidth 12 → e.toNat < n → decode n w = .ok (.setOutputEndpoint e)) ∧
    (∀ b : Byte, w = 0xF00#12 ||| b.setWidth 12 → decode n w = .ok (.rxArrive b)) ∧
    ((0x001 ≤ w.toNat ∧ w.toNat ≤ 0x0FF) ∨ (0x101 ≤ w.toNat ∧ w.toNat ≤ 0x1FF) ∨
      (0x201 ≤ w.toNat ∧ w.toNat ≤ 0x2FF) ∨ (0x300 ≤ w.toNat ∧ w.toNat ≤ 0x3FF) ∨
      (0x700 ≤ w.toNat ∧ w.toNat ≤ 0x7FF) ∨ (0x801 ≤ w.toNat ∧ w.toNat ≤ 0xBFF) ∨
      (0xC01 ≤ w.toNat ∧ w.toNat ≤ 0xCFF) ∨ (0xD00 + n ≤ w.toNat ∧ w.toNat ≤ 0xDFF) ∨
      (0xE00 + n ≤ w.toNat ∧ w.toNat ≤ 0xEFF) →
      ∃ why, decode n w = .error why ∧
        ∀ (s : State) (rest : List Stimulus), s.endpoints.length = n → s.stimuli = .word w :: rest →
          step s = .refused (.reservedWord why))

/-- A few words written out from the tables of rules R62 and R63 (and section 2.9 of 95_test_vectors.md) decode to what they stand for. -/
def Obligations.WrittenOutWordsDecode : Prop :=
  decode 5 0b00_00_00000000#12 = .ok .readStatus ∧ decode 5 0b01_00_11111111#12 = .ok (.writeStatus 0xFF#8) ∧
  decode 5 0b01_01_10000000#12 = .ok (.writeControl 0x80#8) ∧ decode 5 0b00_10_00000000#12 = .ok .readData ∧
  decode 5 0b01_10_01000001#12 = .ok (.writeData 0x41#8) ∧ decode 5 0b10_00_00000000#12 = .ok .poll ∧
  decode 5 0b11_00_00000000#12 = .ok .create ∧ decode 5 0b11_01_00000010#12 = .ok (.setInputEndpoint 2#8) ∧
  decode 5 0b11_10_00000001#12 = .ok (.setOutputEndpoint 1#8) ∧ decode 5 0b11_11_01010101#12 = .ok (.rxArrive 0x55#8) ∧
  decode 2 0b11_01_00000010#12 = .error .beyondTable

/-! ### The step (rules R9, R48, R49) -/

/-- Rules R47 to R49, R69: a stimulus word that decodes is performed whole in one step, and the step adds nothing to the operation but taking the word off the list of stimuli. -/
def Obligations.StepPerformsDecodedWord : Prop :=
  ∀ (s : State) (w : StimulusWord) (rest : List Stimulus) (i : Instr),
    s.stimuli = .word w :: rest → decode s.endpoints.length w = .ok i →
    step s = exec i { s with stimuli := rest }

/-- Rules R9, R21: with no stimulus nothing of the machine changes; that the step then answers a next state with nothing handed out is the model's choice (log 5). -/
def Obligations.StepWithoutStimulusChangesNothing : Prop :=
  ∀ s : State, s.stimuli = [] → ∃ t, step s = .next t ∧ t = { s with out := Outputs.idle }

/-! ### The bus (rules R37 to R44, R54, R59) -/

/-- Rule R43: a byte load from a register address performs that register's read exactly once and yields a byte, without a fault and without an error indication; a `readData` that obtains no byte yields 0x00. -/
def Obligations.ByteLoadPerformsRegisterRead : Prop :=
  ∀ (s s' : State) (rest : List Stimulus) (addr : Nat), s.Inv → s.created = true →
    s.stimuli = .event (.busRead addr 1) :: rest → s' = { s with stimuli := rest } →
    (addr = s.cfg.addrStatus → step s = exec .readStatus s') ∧
    (addr = s.cfg.addrControl → step s = exec .readControl s') ∧
    (addr = s.cfg.addrData → step s = exec .readData s') ∧
    (addr = s.cfg.addrStatus ∨ addr = s.cfg.addrControl ∨ addr = s.cfg.addrData →
      ∃ t b, step s = .next t ∧ t.out.rdata = some b ∧ t.out.raised = none ∧
        (addr = s.cfg.addrData → rxcSet s = true → rxAnswer s = none → b = 0x00#8))

/-- Rule R44: a byte store to a register address performs that register's write exactly once with the stored byte, and every byte value is accepted there. -/
def Obligations.ByteStorePerformsRegisterWrite : Prop :=
  ∀ (s s' : State) (rest : List Stimulus) (addr : Nat) (v : Byte), s.Inv → s.created = true →
    s.stimuli = .event (.busWrite addr [v]) :: rest → s' = { s with stimuli := rest } →
    (addr = s.cfg.addrStatus → step s = exec (.writeStatus v) s') ∧
    (addr = s.cfg.addrControl → step s = exec (.writeControl v) s') ∧
    (addr = s.cfg.addrData → step s = exec (.writeData v) s') ∧
    (addr = s.cfg.addrStatus ∨ addr = s.cfg.addrControl ∨ addr = s.cfg.addrData →
      ∃ t, step s = .next t ∧ t.out.rdata = none ∧ t.out.raised = none)

/-- Rule R40: a load, a store or a fetch inside the address space that covers none of the three addresses changes nothing of the block and gets nothing from it; that the step answers a next state is the model's choice (log 15). -/
def Obligations.AccessElsewhereIsNotThisBlock : Prop :=
  ∀ (s : State) (rest : List Stimulus) (ev : Event) (addr n : Nat), s.Inv →
    s.stimuli = .event ev :: rest →
    (ev = .busRead addr n ∨ (∃ bytes, bytes.length = n ∧ ev = .busWrite addr bytes) ∨ ev = .instrFetch addr n) →
    addr + n ≤ 2 ^ s.cfg.addrWidth →
    (∀ a, a = s.cfg.addrStatus ∨ a = s.cfg.addrControl ∨ a = s.cfg.addrData → ¬ (addr ≤ a ∧ a < addr + n)) →
    step s = .next { s with stimuli := rest, out := Outputs.idle }

/-- Rules R42, R54, R37: inside the address space an access wider than a byte that covers a register address is refused, and so is a fetch of any width that covers one (for a fetch of more than one byte the model's reading of rule R54, log 16); any access or fetch that reaches beyond the address space faults, whatever it covers (the fault is the model's reading of rule R37, log 15). -/
def Obligations.WideAccessesAndFetchesAreRefused : Prop :=
  ∀ (s : State) (rest : List Stimulus) (addr n : Nat),
    (∀ a, a = s.cfg.addrStatus ∨ a = s.cfg.addrControl ∨ a = s.cfg.addrData → addr ≤ a → a < addr + n →
      addr + n ≤ 2 ^ s.cfg.addrWidth →
      (n ≠ 1 → s.stimuli = .event (.busRead addr n) :: rest → step s = .refused (.wideAccess addr n)) ∧
      (∀ bytes : List Byte, bytes.length = n → n ≠ 1 →
        s.stimuli = .event (.busWrite addr bytes) :: rest → step s = .refused (.wideAccess addr n)) ∧
      (s.stimuli = .event (.instrFetch addr n) :: rest → step s = .refused (.fetchFromRegister addr))) ∧
    (2 ^ s.cfg.addrWidth < addr + n →
      (s.stimuli = .event (.busRead addr n) :: rest → step s = .fault (.addressOutsideSpace addr)) ∧
      (∀ bytes : List Byte, bytes.length = n →
        s.stimuli = .event (.busWrite addr bytes) :: rest → step s = .fault (.addressOutsideSpace addr)) ∧
      (s.stimuli = .event (.instrFetch addr n) :: rest → step s = .fault (.addressOutsideSpace addr)))

/-- Rules R91, R92, R100: since registration happens inside `create`, before it neither a byte access of the bus master nor a tick of the scheduler reaches the block; that such a step answers a next state is the model's choice (log 17). -/
def Obligations.BeforeCreateBusAndTickReachNothing : Prop :=
  ∀ (s : State) (rest : List Stimulus) (ev : Event), s.Inv → s.created = false →
    s.stimuli = .event ev :: rest →
    (ev = .tick ∨ (∃ addr, addr < 2 ^ s.cfg.addrWidth ∧ (ev = .busRead addr 1 ∨ ∃ v, ev = .busWrite addr [v]))) →
    step s = .next { s with stimuli := rest, out := Outputs.idle }

/-- Rules R60, R87: on a created block every tick performs `poll`, once. -/
def Obligations.TickPerformsPoll : Prop :=
  ∀ (s : State) (rest : List Stimulus), s.Inv → s.created = true → s.stimuli = .event .tick :: rest →
    step s = exec .poll { s with stimuli := rest }

/-- Rules R48, R68: each of the six strobes stands for its own event and any number active stand for as many events; one active strobe performs what its event performs, none active changes nothing, and two or more are refused (the refusal is the model's choice, log 22). -/
def Obligations.StrobesPerformAtMostOneOperation : Prop :=
  (∀ p : Strobes,
    (∀ ev, ev ∈ activeEvents p ↔
      (p.busRd = true ∧ ev = .busRead p.busAddr 1) ∨ (p.busWr = true ∧ ev = .busWrite p.busAddr [p.busWdata]) ∨
      (p.tick = true ∧ ev = .tick) ∨ (p.create = true ∧ ev = .create) ∨
      (∃ e, p.setIn = some e ∧ ev = .setIn e) ∨ (∃ e, p.setOut = some e ∧ ev = .setOut e)) ∧
    (activeEvents p).length =
      p.busRd.toNat + p.busWr.toNat + p.tick.toNat + p.create.toNat + p.setIn.isSome.toNat + p.setOut.isSome.toNat) ∧
  (∀ (a : Nat) (v : Byte) (e : BitVec 8) (p : Strobes),
    p = { busAddr := a, busRd := false, busWr := false, busWdata := v, tick := false, create := false, setIn := none, setOut := none } →
    activeEvents p = [] ∧
    activeEvents { p with busRd := true } = [.busRead a 1] ∧
    activeEvents { p with busWr := true } = [.busWrite a [v]] ∧
    activeEvents { p with tick := true } = [.tick] ∧
    activeEvents { p with create := true } = [.create] ∧
    activeEvents { p with setIn := some e } = [.setIn e] ∧
    activeEvents { p with setOut := some e } = [.setOut e]) ∧
  (∀ (s : State) (rest : List Stimulus) (p : Strobes), s.stimuli = .strobes p :: rest →
    (∀ ev, activeEvents p = [ev] → step s = step { s with stimuli := .event ev :: rest }) ∧
    (activeEvents p = [] → step s = .next { s with stimuli := rest, out := Outputs.idle }) ∧
    (2 ≤ (activeEvents p).length → step s = .refused .concurrentStrobes))

/-- Rules R59 to R61, R111: whatever the bus master accesses, it performs at most one of the six register operations; so it rebinds nothing, creates nothing, polls nothing and requests nothing. -/
def Obligations.EmulatedSoftwareReachesOnlyRegisterOperations : Prop :=
  ∀ (s : State) (rest : List Stimulus) (ev : Event),
    ((∃ addr n, ev = .busRead addr n) ∨ (∃ addr bytes, ev = .busWrite addr bytes) ∨ (∃ addr n, ev = .instrFetch addr n)) →
    s.stimuli = .event ev :: rest →
    (∀ i, resolve s (.event ev) = .operation i → i.agent = .busMaster) ∧
    (∀ t, step s = .next t →
      t.inEP = s.inEP ∧ t.outEP = s.outEP ∧ t.created = s.created ∧ t.irqlog = s.irqlog ∧ t.out.irqReq = none ∧
      (rxcSet s = false → s.cfg.WF → rxcSet t = false))

/-! ### The register operations (rules R70 to R75) -/

/-- Rule R70: `readStatus` returns the stored bits with DRE forced and has no side effect; repeated it returns the same byte; in the states the machine can be in under `STATUS_STORE_OTHER = false` and a zero reset byte only four results are possible. -/
def Obligations.ReadStatusReturnsForcedStatus : Prop :=
  encode .readStatus = 0x000#12 ∧
  (∀ s : State, s.Inv → s.created = true → resolve s (.event (.busRead s.cfg.addrStatus 1)) = .operation .readStatus) ∧
  ∀ s : State, s.cfg.WF → s.created = true →
    ∃ t, exec .readStatus s = .next t ∧ t = { s with out := t.out } ∧
      t.out = { Outputs.idle with rdata := some (s.status ||| dreMask s.cfg) } ∧
      isset (s.status ||| dreMask s.cfg) (dreMask s.cfg) = true ∧
      txcSet t = txcSet s ∧ rxcSet t = rxcSet s ∧
      exec .readStatus t = .next t ∧
      s.status ||| dreMask s.cfg =
        (s.status &&& (txcMask s.cfg ||| rxcMask s.cfg ||| otherMask s.cfg)) ||| dreMask s.cfg ∧
      (s.Inv → s.cfg.statusStoreOther = false → s.cfg.statusReset = 0x00#8 →
        t.out.rdata = some (dreMask s.cfg) ∨
        t.out.rdata = some (dreMask s.cfg ||| txcMask s.cfg) ∨
        t.out.rdata = some (dreMask s.cfg ||| rxcMask s.cfg) ∨
        t.out.rdata = some (dreMask s.cfg ||| txcMask s.cfg ||| rxcMask s.cfg)) ∧
      (s.cfg = Config.p0 → s.status = 0xC0#8 → t.out.rdata = some 0xE0#8) ∧
      (s.cfg = Config.p0 → s.status = 0x00#8 → t.out.rdata = some 0x20#8)

/-- Rule R71: `writeStatus` is write-1-to-clear on TXC and ignores every other bit for effect; the five other bits are stored exactly under `STATUS_STORE_OTHER`; nothing else of the machine changes; it is idempotent; writing back the TXC bit that was read clears TXC. -/
def Obligations.WriteStatusClearsOnlyTransmitComplete : Prop :=
  (∀ v : Byte, encode (.writeStatus v) = 0x400#12 ||| v.setWidth 12) ∧
  (∀ (s : State) (v : Byte), s.Inv → s.created = true →
    resolve s (.event (.busWrite s.cfg.addrStatus [v])) = .operation (.writeStatus v)) ∧
  ∀ (s : State) (v : Byte), s.cfg.WF → s.created = true →
    ∃ t, exec (.writeStatus v) s = .next t ∧
      t = { s with status := t.status, out := Outputs.idle } ∧
      txcSet t = (txcSet s && !isset v (txcMask s.cfg)) ∧
      rxcSet t = rxcSet s ∧
      t.status &&& dreMask s.cfg = s.status &&& dreMask s.cfg ∧
      isset (statusRead t) (dreMask s.cfg) = true ∧
      t.status &&& otherMask s.cfg =
        (if s.cfg.statusStoreOther then v else s.status) &&& otherMask s.cfg ∧
      (s.cfg.statusStoreOther = false → v = 0x00#8 → t.status = s.status) ∧
      (s.cfg.statusStoreOther = false → v = 0xFF#8 → t.status = clearBits s.status (txcMask s.cfg)) ∧
      exec (.writeStatus v) t = .next t ∧
      (isset v (txcMask s.cfg) = txcSet s → txcSet t = false) ∧
      (s.cfg = Config.p0 → s.status = 0xC0#8 → v = 0x40#8 → t.status = 0x80#8 ∧ statusRead t = 0xA0#8) ∧
      (s.cfg = Config.p0 → s.status = 0xC0#8 → v = 0x80#8 → t.status = 0xC0#8)

/-- Rule R72: `readControl` returns the stored byte verbatim, that is the byte last written or the reset byte, and has no side effect. -/
def Obligations.ReadControlReturnsStoredByte : Prop :=
  encode .readControl = 0x100#12 ∧
  (∀ s : State, s.Inv → s.created = true → resolve s (.event (.busRead s.cfg.addrControl 1)) = .operation .readControl) ∧
  ∀ s : State,
    (s.created = true →
      ∃ t, exec .readControl s = .next t ∧ t = { s with out := t.out } ∧
        t.out = { Outputs.idle with rdata := some s.control }) ∧
    (∀ v t, exec (.writeControl v) s = .next t →
      ∃ u, exec .readControl t = .next u ∧ u.out.rdata = some v) ∧
    (∀ t, exec .create s = .next t → t.created = true →
      ∃ u, exec .readControl t = .next u ∧ u.out.rdata = some s.cfg.controlReset)

/-- Rule R73: `writeControl` stores the byte verbatim and changes nothing else; RXCIE becomes the written bit; no request is made, and with RXC set none is made later by any sequence of operations without a `readData`; it is idempotent. -/
def Obligations.WriteControlStoresVerbatimWithoutRequest : Prop :=
  (∀ v : Byte, encode (.writeControl v) = 0x500#12 ||| v.setWidth 12) ∧
  (∀ (s : State) (v : Byte), s.Inv → s.created = true →
    resolve s (.event (.busWrite s.cfg.addrControl [v])) = .operation (.writeControl v)) ∧
  ∀ (s : State) (v : Byte), s.cfg.WF → s.created = true →
    ∃ t, exec (.writeControl v) s = .next t ∧
      t = { s with control := v, out := Outputs.idle } ∧
      rxcieSet t = isset v (rxcieMask s.cfg) ∧
      txcSet t = txcSet s ∧ rxcSet t = rxcSet s ∧
      t.irqlog = s.irqlog ∧
      (rxcSet s = true → ∀ (ops : List Instr) (u : State), .readData ∉ ops → execAll ops t = some u →
        u.irqlog = s.irqlog) ∧
      exec (.writeControl v) t = .next t

/-- Rule R74: with RXC clear `readData` returns 0x00 and touches nothing; with RXC set it clears RXC, takes exactly the oldest pending byte if the read succeeds and returns it, and returns 0x00 if the read fails; a second call returns 0x00; RXC stays clear until a `poll`; no written byte is ever read back. -/
def Obligations.ReadDataConsumesOneDetectedByte : Prop :=
  encode .readData = 0x200#12 ∧
  (∀ s : State, s.Inv → s.created = true → resolve s (.event (.busRead s.cfg.addrData 1)) = .operation .readData) ∧
  ∀ s : State, s.cfg.WF → s.created = true →
    ∃ t, exec .readData s = .next t ∧
      (rxcSet s = false → t = { s with out := { Outputs.idle with rdata := some 0x00#8 } }) ∧
      (rxcSet s = true →
        t = { s with
          status := clearBits s.status (rxcMask s.cfg), endpoints := t.endpoints, draws := t.draws
          out := { Outputs.idle with rdata := some ((rxAnswer s).getD 0x00#8), rxTake := true } } ∧
        (rxAnswer s).toList ++ pendingInput t = pendingInput s ∧
        (rxAnswer s = none → t.endpoints = s.endpoints) ∧
        (∀ ref, ref ≠ s.inEP → endpointAt t ref = endpointAt s ref) ∧
        (∀ ep, endpointAt s s.inEP = some ep →
          endpointAt t s.inEP = some { ep with pending := pendingInput t }) ∧
        (∀ ep, endpointAt s s.inEP = some ep → ep.inputKind = .canonical → rxAnswer s = ep.pending.head?)) ∧
      rxcSet t = false ∧ txcSet t = txcSet s ∧
      (∃ u, exec .readData t = .next u ∧ u = { t with out := { Outputs.idle with rdata := some 0x00#8 } }) ∧
      (∀ (ops : List Instr) (u : State), .poll ∉ ops → execAll ops t = some u → rxcSet u = false) ∧
      (∀ (v : Byte) (u : State), exec (.writeData v) s = .next u → pendingInput u = pendingInput s)

/-- Rule R75: `writeData` offers its byte unaltered, exactly once, to the output endpoint bound then, whatever `control` holds and whether or not the endpoint takes it, and sets TXC exactly under `TXC_SET_ON_WRITE`; without that parameter TXC stays clear for ever. -/
def Obligations.WriteDataForwardsItsByteOnce : Prop :=
  (∀ v : Byte, encode (.writeData v) = 0x600#12 ||| v.setWidth 12) ∧
  (∀ (s : State) (v : Byte), s.Inv → s.created = true →
    resolve s (.event (.busWrite s.cfg.addrData [v])) = .operation (.writeData v)) ∧
  ∀ (s : State) (v : Byte), s.cfg.WF → s.created = true →
    ∃ t, exec (.writeData v) s = .next t ∧
      t = { s with
        status := t.status, endpoints := t.endpoints, txlog := s.txlog ++ [(s.outEP, v)], draws := t.draws
        out := { Outputs.idle with txPut := some v } } ∧
      t.status = (if s.cfg.txcSetOnWrite then setBits s.status (txcMask s.cfg) else s.status) ∧
      txcSet t = (s.cfg.txcSetOnWrite || txcSet s) ∧ rxcSet t = rxcSet s ∧
      isset (statusRead s) (dreMask s.cfg) = true ∧ isset (statusRead t) (dreMask s.cfg) = true ∧
      (∀ ref, ref ≠ s.outEP → endpointAt t ref = endpointAt s ref) ∧
      (∀ ep, endpointAt s s.outEP = some ep →
        endpointAt t s.outEP =
          some (if txAccepted s then { ep with received := ep.received ++ [v] } else ep) ∧
        (ep.outputKind = .canonical → txAccepted s = true) ∧
        (ep.outputKind = .closed → txAccepted s = false)) ∧
      (∀ c : Byte, exec (.writeData v) { s with control := c } = .next { t with control := c }) ∧
      (s.cfg.txcSetOnWrite = false → txcSet s = false →
        ∀ (ops : List Instr) (u : State), execAll ops s = some u → txcSet u = false) ∧
      (s.cfg = Config.p0 → s.status = 0x00#8 → v = 0x48#8 → t.status = 0x40#8 ∧ statusRead t = 0x60#8)

/-! ### The tick (rules R80 to R83) -/

/-- Rule R80: `poll` with nothing available changes no state of the block; with input available it sets RXC and makes exactly one request if RXC was clear and RXCIE set; it consumes no byte, and looks at nothing but the input, RXC and RXCIE; before `create` it is misuse. -/
def Obligations.PollDetectsInputAndRequestsOnce : Prop :=
  encode .poll = 0x800#12 ∧
  (∀ s : State, s.Inv → s.created = true → resolve s (.event .tick) = .operation .poll) ∧
  (∀ s : State, s.created = false → exec .poll s = .fault (.preconditionViolation "poll")) ∧
  ∀ s : State, s.cfg.WF → s.created = true →
    ∃ t, exec .poll s = .next t ∧
      t = { s with status := t.status, irqlog := t.irqlog, draws := t.draws, out := t.out } ∧
      t.out = { Outputs.idle with irqReq := t.out.irqReq } ∧
      (rxAvail s = false → t.status = s.status ∧ t.irqlog = s.irqlog ∧ t.out.irqReq = none) ∧
      (rxAvail s = true → t.status = setBits s.status (rxcMask s.cfg) ∧ rxcSet t = true) ∧
      (rxAvail s = true → rxcSet s = false → rxcieSet s = true →
        t.irqlog = s.irqlog ++ [s.cfg.rxIrqLine] ∧ t.out.irqReq = some s.cfg.rxIrqLine) ∧
      (rxcSet s = true ∨ rxcieSet s = false → t.irqlog = s.irqlog ∧ t.out.irqReq = none) ∧
      (rxcSet s = true → t.status = s.status) ∧
      txcSet t = txcSet s ∧
      (∀ ep, endpointAt s s.inEP = some ep → ep.inputKind = .canonical →
        rxAvail s = !ep.pending.isEmpty ∧ t.draws = s.draws) ∧
      (∀ (x c : Byte) (o : Nat), isset x (rxcMask s.cfg) = rxcSet s → isset c (rxcieMask s.cfg) = rxcieSet s →
        ∃ u, exec .poll { s with status := x, control := c, outEP := o } = .next u ∧
          u.irqlog = t.irqlog ∧ u.out = t.out ∧ rxcSet u = rxcSet t ∧ u.draws = t.draws)

/-- Rules R82, R102: a request is performed exactly by a `poll` that finds input available, RXC clear and RXCIE set, exactly once, and by no other operation. -/
def Obligations.RequestExactlyOnEnabledRisingEdge : Prop :=
  ∀ (i : Instr) (s t : State), exec i s = .next t →
    (s.created = true →
      t.irqlog = s.irqlog ++
        (if i = .poll ∧ rxAvail s = true ∧ rxcSet s = false ∧ rxcieSet s = true then [s.cfg.rxIrqLine] else [])) ∧
    (s.created = false → t.irqlog = s.irqlog ∨ t.irqlog = []) ∧
    t.out.irqReq =
      (if i = .poll ∧ rxAvail s = true ∧ rxcSet s = false ∧ rxcieSet s = true then some s.cfg.rxIrqLine else none)

/-- Rule R83 (E8): once a `poll` has found the pending byte, or on an endpoint that is no host stream in any case, a further `poll` changes nothing but the count of draws and what is handed out. -/
def Obligations.RepeatedPollChangesNothing : Prop :=
  ∀ s t : State, s.cfg.WF → exec .poll s = .next t →
    (rxAvail s = true ∨ boundToHostStream s = false) →
    ∃ u, exec .poll t = .next u ∧ u = { t with draws := u.draws, out := Outputs.idle }

/-! ### The host's operations (rules R88 to R93, R99) -/

/-- Rule R88: `create` on a machine without the block gives every part of the record its reset value, binds the standard streams, registers the three handlers and the poll, empties both logs, and touches no endpoint; a second `create` is refused. -/
def Obligations.CreateGivesResetState : Prop :=
  encode .create = 0xC00#12 ∧
  (∀ s : State, resolve s (.event .create) = .operation .create) ∧
  (∀ s : State, s.created = true → exec .create s = .refused .secondCreate) ∧
  ∀ s : State, s.created = false → inputSupported s standardInput = true →
    ∃ t, exec .create s = .next t ∧
      t = { s with
        status := s.cfg.statusReset, control := s.cfg.controlReset
        inEP := standardInput, outEP := standardOutput, created := true
        txlog := [], irqlog := [], handlers := s.handlers ++ addressMap s.cfg, pollEnrolled := true
        out := Outputs.idle } ∧
      (NothingBeforeCreate s → t.handlers = addressMap s.cfg) ∧
      (s.cfg.WF → rxcSet t = false) ∧
      (s.cfg.WF → ∃ u, exec .readData t = .next u ∧ u.out.rdata = some 0x00#8) ∧
      (s.cfg = Config.p0 → statusRead t = 0x20#8 ∧ t.control = 0x00#8)

/-- Rule R89: `setInputEndpoint` binds a supported endpoint and changes nothing else, RXC included, so a later `readData` takes from the new endpoint or returns 0x00; an unsupported kind raises `ConfigurationError` to the host with everything unchanged (that raising is a next state is the model's choice, log 12). -/
def Obligations.SetInputEndpointRebindsOnly : Prop :=
  (∀ e : BitVec 8, encode (.setInputEndpoint e) = 0xD00#12 ||| e.setWidth 12) ∧
  (∀ (s : State) (e : BitVec 8), resolve s (.event (.setIn e)) = .operation (.setInputEndpoint e)) ∧
  ∀ (s : State) (e : BitVec 8) (ep : Endpoint), s.cfg.WF → s.created = true → endpointAt s e.toNat = some ep →
    (supportedInputKind s.cfg ep.inputKind = false →
      exec (.setInputEndpoint e) s =
        .next { s with out := { Outputs.idle with raised := some (.configurationError e.toNat) } }) ∧
    (supportedInputKind s.cfg ep.inputKind = true →
      ∃ t, exec (.setInputEndpoint e) s = .next t ∧ t = { s with inEP := e.toNat, out := Outputs.idle } ∧
        (rxcSet s = true → ep.pending = [] →
          ∃ u, exec .readData t = .next u ∧ u.out.rdata = some 0x00#8 ∧ rxcSet u = false ∧ u.endpoints = s.endpoints) ∧
        (∀ b rest, rxcSet s = true → ep.inputKind = .canonical → ep.pending = b :: rest →
          ∃ u, exec .readData t = .next u ∧ u.out.rdata = some b ∧
            ∀ ref, ref ≠ e.toNat → endpointAt u ref = endpointAt s ref) ∧
        (rxcSet s = false → ∃ u, exec .readData t = .next u ∧ u.out.rdata = some 0x00#8 ∧ u.endpoints = s.endpoints) ∧
        (∀ b rest, ep.inputKind = .canonical → ep.pending = b :: rest →
          ∃ u x, exec .poll t = .next u ∧ exec .readData u = .next x ∧ x.out.rdata = some b) ∧
        (e.toNat = s.inEP → t = { s with out := Outputs.idle }))

/-- Rule R90: `setOutputEndpoint` binds its endpoint and changes nothing else, TXC included; every later `writeData` goes to the new endpoint and to no other. -/
def Obligations.SetOutputEndpointRebindsOnly : Prop :=
  (∀ e : BitVec 8, encode (.setOutputEndpoint e) = 0xE00#12 ||| e.setWidth 12) ∧
  (∀ (s : State) (e : BitVec 8), resolve s (.event (.setOut e)) = .operation (.setOutputEndpoint e)) ∧
  ∀ (s : State) (e : BitVec 8) (ep : Endpoint), s.created = true → endpointAt s e.toNat = some ep →
    ∃ t, exec (.setOutputEndpoint e) s = .next t ∧ t = { s with outEP := e.toNat, out := Outputs.idle } ∧
      ∀ v : Byte, ∃ u, exec (.writeData v) t = .next u ∧ u.txlog = s.txlog ++ [(e.toNat, v)] ∧
        (∀ ref, ref ≠ e.toNat → endpointAt u ref = endpointAt s ref) ∧
        (ep.outputKind = .canonical → endpointAt u e.toNat = some { ep with received := ep.received ++ [v] })

/-- Rules R93, R99: a `ConfigurationError` is raised by the two operations that bind an input and by no other, exactly for an unsupported kind, and leaves everything else unchanged, a `create` that raises it included (that raising is a next state is the model's choice, log 12). -/
def Obligations.ConfigurationErrorLeavesStateUnchanged : Prop :=
  (∀ (i : Instr) (s t : State), exec i s = .next t → t.out.raised ≠ none →
    (i = .create ∨ ∃ e, i = .setInputEndpoint e) ∧ t = { s with out := t.out } ∧
      ∃ ref, t.out.raised = some (.configurationError ref) ∧ inputSupported s ref = false) ∧
  (∀ s : State, s.created = false → inputSupported s standardInput = false →
    exec .create s =
      .next { s with out := { Outputs.idle with raised := some (.configurationError standardInput) } })

/-- Rule R100: every one of the ten operations but `create`, performed before `create`, is misuse and faults under its own name. -/
def Obligations.OperationsBeforeCreateFault : Prop :=
  ∀ (i : Instr) (s : State), s.created = false → i ≠ .create → (∀ b, i ≠ .rxArrive b) →
    exec i s = .fault (.preconditionViolation i.mnemonic)

/-- Rule R96: no operation reached over the bus raises anything, in any state of the created block and for any operand. -/
def Obligations.BusOperationsNeverFail : Prop :=
  ∀ (i : Instr) (s : State), s.created = true → i.agent = .busMaster →
    ∃ t, exec i s = .next t ∧ t.out.raised = none ∧ t.created = true

/-! ### The environment (rules R32, R67, R131) -/

/-- Rule R67: `rxArrive` appends its byte to the pending input of the bound input endpoint, which must be open, and changes no state of the block; at an endpoint that is not open it is refused (the refusal is the model's choice, log 18). -/
def Obligations.ArrivalJoinsBoundInput : Prop :=
  (∀ b : Byte, encode (.rxArrive b) = 0xF00#12 ||| b.setWidth 12) ∧
  ∀ (s : State) (b : Byte),
    (∀ ep, endpointAt s s.inEP = some ep → ep.isOpen = true →
      ∃ t, exec (.rxArrive b) s = .next t ∧ t = { s with endpoints := t.endpoints, out := Outputs.idle } ∧
        endpointAt t s.inEP = some { ep with pending := ep.pending ++ [b] } ∧
        (∀ ref, ref ≠ s.inEP → endpointAt t ref = endpointAt s ref)) ∧
    ((∀ ep, endpointAt s s.inEP = some ep → ep.isOpen = false) →
      exec (.rxArrive b) s = .refused (.endpointNotOpen s.inEP))

/-- Rules R9, R32, R131: an arrival at any endpoint and the loss of a byte of a host stream touch that endpoint's pending bytes only; RXC can so outlive its byte. An arrival at an endpoint that is not open or not in the table is refused (the model's choice, log 18), and so is a loss at one that is no host stream, holds no byte or is not in the table (which endpoints may lose a byte is the model's reading, log 19). -/
def Obligations.EnvironmentTouchesOnlyPendingBytes : Prop :=
  (∀ (s : State) (rest : List Stimulus) (ref : Nat) (ep : Endpoint), endpointAt s ref = some ep →
    (∀ b, s.stimuli = .event (.arrive ref b) :: rest → ep.isOpen = true →
      ∃ t, step s = .next t ∧ t = { s with stimuli := rest, endpoints := t.endpoints, out := Outputs.idle } ∧
        endpointAt t ref = some { ep with pending := ep.pending ++ [b] } ∧
        (∀ ref', ref' ≠ ref → endpointAt t ref' = endpointAt s ref')) ∧
    (∀ b more, s.stimuli = .event (.drain ref) :: rest → isHostStream ep.inputKind = true → ep.pending = b :: more →
      ∃ t, step s = .next t ∧ t = { s with stimuli := rest, endpoints := t.endpoints, out := Outputs.idle } ∧
        rxcSet t = rxcSet s ∧
        endpointAt t ref = some { ep with pending := more } ∧
        (∀ ref', ref' ≠ ref → endpointAt t ref' = endpointAt s ref'))) ∧
  (∀ (s : State) (rest : List Stimulus) (ref : Nat),
    (∀ b, s.stimuli = .event (.arrive ref b) :: rest →
      (∀ ep, endpointAt s ref = some ep → ep.isOpen = false) → step s = .refused (.endpointNotOpen ref)) ∧
    (s.stimuli = .event (.drain ref) :: rest →
      (∀ ep, endpointAt s ref = some ep → isHostStream ep.inputKind = false ∨ ep.pending = []) →
      step s = .refused (.endpointNotDrainable ref)))

/-- Rule R67: the script's `bind input [..]` binds a fresh closed canonical endpoint holding those bytes and changes nothing else; every endpoint there was stays as it was. That the fresh endpoint joins the table's end is the model's choice (log 20). -/
def Obligations.BindInputGivesFreshSource : Prop :=
  ∀ (s : State) (rest : List Stimulus) (bytes : List Byte), s.created = true →
    s.stimuli = .event (.bindInput bytes) :: rest →
    ∃ t, step s = .next t ∧
      t = { s with
        stimuli := rest, inEP := s.endpoints.length, endpoints := s.endpoints ++ [finiteSource bytes]
        out := Outputs.idle } ∧
      pendingInput t = bytes ∧
      rxAvail t = !bytes.isEmpty ∧
      (∀ ref, ref < s.endpoints.length → endpointAt t ref = endpointAt s ref)

/-! ### The machine as a whole -/

/-- Rule R35: what each operation of the created block can change, and which operation alone can change it. I1 to I4 are the document's four invariants; I5 to I9 are inferences that rule R35 itself marks as derived from rules R70 to R75, R80, R89 and R90. -/
def Obligations.OnlyNamedOperationsChangeEachPart : Prop :=
  ∀ (i : Instr) (s t : State), s.cfg.WF → s.created = true → exec i s = .next t →
    isset (statusRead t) (dreMask t.cfg) = true ∧
    (rxcSet s = false → rxcSet t = true → i = .poll ∧ rxAvail s = true) ∧
    (rxcSet s = true → rxcSet t = false → i = .readData) ∧
    (txcSet s = true → txcSet t = false → ∃ v, i = .writeStatus v ∧ isset v (txcMask s.cfg) = true) ∧
    t.irqlog = s.irqlog ++
      (if i = .poll ∧ rxAvail s = true ∧ rxcSet s = false ∧ rxcieSet s = true then [s.cfg.rxIrqLine] else []) ∧
    (t.control ≠ s.control → ∃ v, i = .writeControl v) ∧
    (t.status &&& otherMask s.cfg ≠ s.status &&& otherMask s.cfg →
      (∃ v, i = .writeStatus v) ∧ s.cfg.statusStoreOther = true) ∧
    ((∃ v, i = .writeData v ∧ t.txlog = s.txlog ++ [(s.outEP, v)]) ∨
      ((∀ v, i ≠ .writeData v) ∧ t.txlog = s.txlog)) ∧
    (∀ ref ep ep', endpointAt s ref = some ep → endpointAt t ref = some ep' →
      ep'.pending = ep.pending ∨
      (∃ b, i = .rxArrive b ∧ ref = s.inEP ∧ ep'.pending = ep.pending ++ [b]) ∨
      (i = .readData ∧ rxcSet s = true ∧ ref = s.inEP ∧ ep'.pending = ep.pending.tail)) ∧
    (t.inEP ≠ s.inEP → ∃ e, i = .setInputEndpoint e) ∧
    (t.outEP ≠ s.outEP → ∃ e, i = .setOutputEndpoint e)

/-- Rule R46: `writeStatus` and `writeControl` are idempotent, and `writeData` is not: the repeated store offers the byte again. -/
def Obligations.WritesAreIdempotentExceptData : Prop :=
  ∀ (s : State) (v : Byte), s.cfg.WF → s.created = true →
    (∃ t, exec (.writeStatus v) s = .next t ∧ exec (.writeStatus v) t = .next t) ∧
    (∃ t, exec (.writeControl v) s = .next t ∧ exec (.writeControl v) t = .next t) ∧
    (∃ t u, exec (.writeData v) s = .next t ∧ exec (.writeData v) t = .next u ∧
      u.txlog = s.txlog ++ [(s.outEP, v), (s.outEP, v)])

/-- Rule R26: the seven control bits other than RXCIE are read by no operation but `readControl`: with any of them changed every other operation answers the same, and differs at most in the control byte it leaves. -/
def Obligations.ReservedControlBitsHaveNoEffect : Prop :=
  ∀ (i : Instr) (s : State) (c : Byte), i ≠ .readControl → isset c (rxcieMask s.cfg) = rxcieSet s →
    (∀ t, exec i s = .next t →
      ∃ u, exec i { s with control := c } = .next u ∧ u = { t with control := u.control } ∧
        (u.control = c ∨ u.control = t.control)) ∧
    (∀ f, exec i s = .fault f → exec i { s with control := c } = .fault f) ∧
    (∀ r, exec i s = .refused r → exec i { s with control := c } = .refused r)

/-- Rules R22, R24, R27: of the stored status only RXC is read by any operation but `readStatus`, and `readStatus` does not see the stored DRE bit. -/
def Obligations.OnlyReceiveCompleteOfStatusIsRead : Prop :=
  ∀ (i : Instr) (s : State) (x : Byte), s.cfg.WF → isset x (rxcMask s.cfg) = rxcSet s →
    (i ≠ .readStatus →
      (∀ t, exec i s = .next t →
        ∃ u, exec i { s with status := x } = .next u ∧ u = { t with status := u.status } ∧ rxcSet u = rxcSet t) ∧
      (∀ f, exec i s = .fault f → exec i { s with status := x } = .fault f) ∧
      (∀ r, exec i s = .refused r → exec i { s with status := x } = .refused r)) ∧
    (x ||| dreMask s.cfg = s.status ||| dreMask s.cfg →
      ∀ t, exec .readStatus s = .next t → exec .readStatus { s with status := x } = .next { t with status := x })

/-- Rule R95: no step of any kind returns a created block to not created. -/
def Obligations.CreatedIsNeverCleared : Prop :=
  ∀ s t : State, step s = .next t → s.created = true → t.created = true

/-- Rules R103, R109: no step of any kind takes a request back; each adds at most one. -/
def Obligations.NoStepTakesARequestBack : Prop :=
  ∀ s t : State, step s = .next t → s.created = true →
    ∃ more : List Nat, t.irqlog = s.irqlog ++ more ∧ more.length ≤ 1

/-- Rules R36, R118: `State.reset` is what `create` leaves of a machine launched with the parameters of log 1 and the endpoint table of log 7 (both the model's choice). -/
def Obligations.ResetIsWhatCreateLeaves : Prop :=
  exec .create (State.launch Config.p0 [Endpoint.stdin, Endpoint.stdout]) = .next State.reset

/-- The invariant holds at `State.reset`, whose parameters and endpoint table are the model's choice (logs 1, 7). -/
def Obligations.ResetSatisfiesInvariant : Prop := State.reset.Inv

/-- The invariant holds at the launch, for every admissible choice of parameters and every endpoint table with the two standard entries; what the record holds before `create` is the model's choice (log 4). -/
def Obligations.LaunchSatisfiesInvariant : Prop :=
  ∀ (c : Config) (table : List Endpoint), c.WF → standardOutput < table.length → (State.launch c table).Inv

/-- Rules R22, R24, R27, R31, R39, R91 to R93, R101 to R103: from every state that meets the invariant, a step of any kind leads to one that meets it, and no step changes the parameters. -/
def Obligations.EveryStepKeepsInvariant : Prop :=
  ∀ s t : State, s.Inv → step s = .next t → t.Inv ∧ t.cfg = s.cfg

/-! ### Sequences of operations -/

/-- Rules R31, R75 (E7): on a canonical output endpoint that stays bound, exactly the written bytes are received, in order, none duplicated and none dropped. -/
def Obligations.TransmittedBytesArriveInOrder : Prop :=
  ∀ (ops : List Instr) (s t : State) (ep : Endpoint), s.created = true →
    endpointAt s s.outEP = some ep → ep.outputKind = .canonical → (∀ i ∈ ops, bindsOutput i = false) →
    execAll ops s = some t →
    (∃ ep', endpointAt t s.outEP = some ep' ∧ ep'.received = ep.received ++ transmissions ops) ∧
    t.txlog = s.txlog ++ (transmissions ops).map (fun b => (s.outEP, b))

/-- Rule R84: while an input stays bound, the bytes taken from it, in order, followed by what is still pending, are what was pending followed by what arrived: none lost, none duplicated, none out of order, on an endpoint of any kind. -/
def Obligations.NoInputByteIsLostOrDuplicated : Prop :=
  ∀ (ops : List Instr) (s t : State), (∀ i ∈ ops, bindsInput i = false) → execAll ops s = some t →
    takenByAll ops s ++ pendingInput t = pendingInput s ++ arrivals ops

/-- Rule R84: with bytes pending on the canonical endpoint, that many rounds of `poll` and `readData` hand them back in arrival order, leave the rest pending and RXC clear, and make one request each exactly if RXCIE is set. -/
def Obligations.RoundsDeliverPendingBytesInOrder : Prop :=
  ∀ (bytes rest : List Byte) (s : State) (ep : Endpoint), s.cfg.WF → s.created = true → rxcSet s = false →
    endpointAt s s.inEP = some ep → ep.inputKind = .canonical → ep.pending = bytes ++ rest →
    ∃ t, execAll (receiveRounds bytes.length) s = some t ∧
      handedBack (receiveRounds bytes.length) s = bytes ∧
      pendingInput t = rest ∧ rxcSet t = false ∧
      t.irqlog = s.irqlog ++ (if rxcieSet s then List.replicate bytes.length s.cfg.rxIrqLine else [])

/-- Rule R85: once the bound source is exhausted and closed, no sequence of operations that keeps it bound ever sets RXC again or makes a request That a closed source stays closed is the model's choice (log 30). -/
def Obligations.ExhaustedSourceStaysSilent : Prop :=
  ∀ (ops : List Instr) (s t : State) (ep : Endpoint), s.cfg.WF → s.created = true →
    endpointAt s s.inEP = some ep → ep.pending = [] → ep.isOpen = false → (∀ i ∈ ops, bindsInput i = false) →
    execAll ops s = some t →
    t.irqlog = s.irqlog ∧ rxAvail t = false ∧ (rxcSet s = false → rxcSet t = false)

/-- Rules R104, R107 (section 2.11 d): every request is paid for by a `readData` that found RXC set, but for the one byte that may be detected and unread; so two requests never follow each other without such a `readData` between them. -/
def Obligations.RequestsAreBoundedByReads : Prop :=
  ∀ (ops : List Instr) (s t : State), s.cfg.WF → s.created = true → execAll ops s = some t →
    t.irqlog.length + (if rxcSet s then 1 else 0) ≤
      s.irqlog.length + receivedReads ops s + (if rxcSet t then 1 else 0)

/-! ### Reserved indices and liveness -/

/-- Rule R63 (log 14): on a created block an index at or beyond the end of the endpoint table is refused by both rebinds, performed directly or as the host's call; that the host's call is refused like the reserved word is the model's reading, log 14. -/
def Obligations.EndpointIndexBeyondTableIsRefused : Prop :=
  ∀ (s : State) (e : BitVec 8) (rest : List Stimulus), s.created = true → s.endpoints.length ≤ e.toNat →
    exec (.setInputEndpoint e) s = .refused (.endpointBeyondTable e) ∧
    exec (.setOutputEndpoint e) s = .refused (.endpointBeyondTable e) ∧
    (s.stimuli = .event (.setIn e) :: rest → step s = .refused (.endpointBeyondTable e)) ∧
    (s.stimuli = .event (.setOut e) :: rest → step s = .refused (.endpointBeyondTable e))

/-- Rules R52, R126, R135: under the named premise of weak fairness of `poll`, a byte pending at a canonical input that stays bound is eventually detected, however the stimuli of all agents interleave. -/
def Obligations.PendingByteIsEventuallyDetected : Prop :=
  ∀ (feed : Nat → Stimulus) (run : Nat → State) (n : Nat) (ep : Endpoint),
    InfiniteRun feed run → PollWeaklyFair feed run →
    (run n).cfg.WF → (run n).created = true →
    endpointAt (run n) (run n).inEP = some ep → ep.inputKind = .canonical → ep.pending ≠ [] →
    (∀ m, n ≤ m → (run m).inEP = (run n).inEP) →
    ∃ m, n ≤ m ∧ rxcSet (run m) = true
end

