-- ==== Sys2Proof/Laws/Decode.lean ====
section
/-! SUPPORT. The fields of a stimulus word and `assemble` are inverse to each other (rule R62). -/

namespace Sys2Proof

/-- The bits of an assembled word, field by field (rule R62). -/
theorem assemble_getLsbD (kind sel : BitVec 2) (data : BitVec 8) (i : Nat) :
    (assemble kind sel data).getLsbD i =
      if i < 8 then data.getLsbD i else if i < 10 then sel.getLsbD (i - 8) else kind.getLsbD (i - 10) := by
  unfold assemble
  rw [BitVec.getLsbD_append]
  by_cases h : i < 8
  · simp [h]
  · simp only [h, if_false, BitVec.getLsbD_append]
    by_cases h2 : i < 10
    · have : i - 8 < 2 := by omega
      simp [h2, this]
    · have h3 : ¬ i - 8 < 2 := by omega
      have : i - 8 - 2 = i - 10 := by omega
      simp [h2, h3, this]

@[simp] theorem wordKind_assemble (kind sel : BitVec 2) (data : BitVec 8) :
    wordKind (assemble kind sel data) = kind := by
  apply BitVec.eq_of_getLsbD_eq
  intro i hi
  have h1 : ¬ 10 + i < 8 := by omega
  have h2 : ¬ 10 + i < 10 := by omega
  rw [wordKind, BitVec.getLsbD_extractLsb', assemble_getLsbD, if_neg h1, if_neg h2, Nat.add_sub_cancel_left]
  simp only [hi, decide_true, Bool.true_and]

@[simp] theorem wordSel_assemble (kind sel : BitVec 2) (data : BitVec 8) :
    wordSel (assemble kind sel data) = sel := by
  apply BitVec.eq_of_getLsbD_eq
  intro i hi
  have h1 : ¬ 8 + i < 8 := by omega
  have h2 : 8 + i < 10 := by omega
  rw [wordSel, BitVec.getLsbD_extractLsb', assemble_getLsbD, if_neg h1, if_pos h2, Nat.add_sub_cancel_left]
  simp only [hi, decide_true, Bool.true_and]

@[simp] theorem wordData_assemble (kind sel : BitVec 2) (data : BitVec 8) :
    wordData (assemble kind sel data) = data := by
  apply BitVec.eq_of_getLsbD_eq
  intro i hi
  rw [wordData, BitVec.getLsbD_extractLsb', assemble_getLsbD, Nat.zero_add, if_pos hi]
  simp only [hi, decide_true, Bool.true_and]

/-- A word is assembled from its own fields (rule R62). -/
theorem assemble_fields (w : StimulusWord) : assemble (wordKind w) (wordSel w) (wordData w) = w := by
  apply BitVec.eq_of_getLsbD_eq
  intro i hi
  rw [assemble_getLsbD]
  unfold wordKind wordSel wordData
  simp only [BitVec.getLsbD_extractLsb']
  by_cases h : i < 8
  · simp only [h, if_true, decide_true, Bool.true_and, Nat.zero_add]
  · by_cases h2 : i < 10
    · have h3 : i - 8 < 2 := by omega
      have h4 : 8 + (i - 8) = i := by omega
      simp only [h, h2, h3, h4, if_true, if_false, decide_true, Bool.true_and]
    · have h3 : i - 10 < 2 := by omega
      have h4 : 10 + (i - 10) = i := by omega
      simp only [h, h2, h3, h4, if_false, decide_true, Bool.true_and]

end Sys2Proof
end

