-- ==== Sys2Proof/Laws/Flags.lean ====
section
/-! SUPPORT. The laws of the byte operators (rule R11) and of the masks (rule R7), stated once for every choice of bit positions. -/

namespace Sys2Proof.Machine

/-- The one bit of a one-bit mask. -/
theorem bitMask_getLsbD (i : Fin 8) (j : Nat) : (bitMask i).getLsbD j = decide (i.val = j) := by
  revert i
  intro i
  by_cases hj : j < 8
  · have : ∀ (i : Fin 8) (j : Fin 8), (bitMask i).getLsbD j.val = decide (i.val = j.val) := by decide
    exact this i ⟨j, hj⟩
  · rw [BitVec.getLsbD_of_ge _ _ (by omega)]
    simp; omega

/-- A byte has the bit of a one-bit mask set exactly when its bit of that position is 1. -/
theorem isset_bitMask (b : Byte) (i : Fin 8) : isset b (bitMask i) = b.getLsbD i.val := by
  cases hb : b.getLsbD i.val with
  | true =>
    have hne : b &&& bitMask i ≠ 0#8 := fun h => by
      have := congrArg (fun x : Byte => x.getLsbD i.val) h
      simp only [BitVec.getLsbD_and, hb, bitMask_getLsbD, BitVec.getLsbD_zero] at this
      simp at this
    simp [isset, hne]
  | false =>
    have heq : b &&& bitMask i = 0#8 := by
      apply BitVec.eq_of_getLsbD_eq
      intro j hj
      simp only [BitVec.getLsbD_and, bitMask_getLsbD, BitVec.getLsbD_zero]
      by_cases h : i.val = j
      · subst h; simp only [hb, Bool.false_and]
      · simp only [h, decide_false, Bool.and_false]
    simp [isset, heq]

/-- Rule R11: a set bit reads set. -/
theorem isset_setBits_self (b : Byte) (i : Fin 8) : isset (setBits b (bitMask i)) (bitMask i) = true := by
  simp only [isset_bitMask, setBits, BitVec.getLsbD_or, bitMask_getLsbD, decide_true, Bool.or_true]

/-- Rule R11: a cleared bit reads clear. -/
theorem isset_clearBits_self (b : Byte) (i : Fin 8) : isset (clearBits b (bitMask i)) (bitMask i) = false := by
  simp only [isset_bitMask, clearBits, BitVec.getLsbD_and, BitVec.getLsbD_not, bitMask_getLsbD, decide_true,
    Bool.not_true, Bool.and_false]

/-- Rule R11: setting one bit leaves every other bit alone. -/
theorem isset_setBits_other (b : Byte) {i j : Fin 8} (h : i ≠ j) :
    isset (setBits b (bitMask i)) (bitMask j) = isset b (bitMask j) := by
  have hv : i.val ≠ j.val := fun hv => h (Fin.ext hv)
  simp only [isset_bitMask, setBits, BitVec.getLsbD_or, bitMask_getLsbD, hv, decide_false, Bool.or_false]

/-- Rule R11: clearing one bit leaves every other bit alone. -/
theorem isset_clearBits_other (b : Byte) {i j : Fin 8} (h : i ≠ j) :
    isset (clearBits b (bitMask i)) (bitMask j) = isset b (bitMask j) := by
  have hv : i.val ≠ j.val := fun hv => h (Fin.ext hv)
  simp only [isset_bitMask, clearBits, BitVec.getLsbD_and, BitVec.getLsbD_not, bitMask_getLsbD, hv, decide_false,
    Bool.not_false, Bool.and_true, j.isLt, decide_true]

/-- Rule R11: setting twice is setting once. -/
theorem setBits_setBits (b m : Byte) : setBits (setBits b m) m = setBits b m := by
  simp [setBits, BitVec.or_assoc]

/-- Rule R11: clearing twice is clearing once. -/
theorem clearBits_clearBits (b m : Byte) : clearBits (clearBits b m) m = clearBits b m := by
  simp [clearBits, BitVec.and_assoc]

/-- Setting a bit that is set changes nothing. -/
theorem setBits_of_isset (b : Byte) (i : Fin 8) (h : isset b (bitMask i) = true) : setBits b (bitMask i) = b := by
  rw [isset_bitMask] at h
  apply BitVec.eq_of_getLsbD_eq
  intro j hj
  simp only [setBits, BitVec.getLsbD_or, bitMask_getLsbD]
  by_cases hij : i.val = j
  · subst hij; simp [h]
  · simp [hij]

/-- Clearing a bit that is clear changes nothing. -/
theorem clearBits_of_not_isset (b : Byte) (i : Fin 8) (h : isset b (bitMask i) = false) :
    clearBits b (bitMask i) = b := by
  rw [isset_bitMask] at h
  apply BitVec.eq_of_getLsbD_eq
  intro j hj
  simp only [clearBits, BitVec.getLsbD_and, BitVec.getLsbD_not, bitMask_getLsbD]
  by_cases hij : i.val = j
  · subst hij; simp only [h, Bool.false_and]
  · simp only [hij, hj, decide_false, decide_true, Bool.not_false, Bool.and_true]

/-- Rule R11: `set` with a one-bit mask and `clear` with another commute. -/
theorem setBits_clearBits_comm (b : Byte) {i j : Fin 8} (h : i ≠ j) :
    setBits (clearBits b (bitMask j)) (bitMask i) = clearBits (setBits b (bitMask i)) (bitMask j) := by
  have hv : i.val ≠ j.val := fun hv => h (Fin.ext hv)
  apply BitVec.eq_of_getLsbD_eq
  intro k hk
  simp only [setBits, clearBits, BitVec.getLsbD_and, BitVec.getLsbD_or, BitVec.getLsbD_not, bitMask_getLsbD, hk]
  by_cases hik : i.val = k
  · have : ¬ j.val = k := fun hj => hv (hik.trans hj.symm)
    simp [hik, this]
  · simp [hik]

/-- A bit of `OTHER_MASK` is a bit of the byte that is no flag (rule R7). -/
theorem otherMask_getLsbD (c : Config) (j : Nat) :
    (otherMask c).getLsbD j =
      decide (j < 8 ∧ c.dreBit.val ≠ j ∧ c.txcBit.val ≠ j ∧ c.rxcBit.val ≠ j) := by
  have h255 : ∀ j : Nat, (0xFF#8).getLsbD j = decide (j < 8) := by
    intro j
    by_cases hj : j < 8
    · have : ∀ j : Fin 8, (0xFF#8).getLsbD j.val = decide (j.val < 8) := by decide
      exact this ⟨j, hj⟩
    · rw [BitVec.getLsbD_of_ge _ _ (by omega)]; simp [hj]
  simp only [otherMask, flagMask, dreMask, txcMask, rxcMask, BitVec.getLsbD_and, BitVec.getLsbD_not,
    BitVec.getLsbD_or, bitMask_getLsbD, h255]
  by_cases hj : j < 8 <;> simp [hj, Bool.decide_and, Bool.and_assoc]

/-- The bits of a status byte after a write, one by one (rules R56, R71). -/
theorem statusWritten_getLsbD (c : Config) (status v : Byte) (j : Nat) :
    (statusWritten c status v).getLsbD j =
      if c.statusStoreOther ∧ (otherMask c).getLsbD j then v.getLsbD j
      else status.getLsbD j && !(decide (c.txcBit.val = j) && v.getLsbD c.txcBit.val) := by
  by_cases hj : j < 8
  · cases hs : c.statusStoreOther <;> cases hv : v.getLsbD c.txcBit.val <;> cases ho : (otherMask c).getLsbD j <;>
      simp only [statusWritten, storeOtherBits, clearTxcIfWritten, txcMask, isset_bitMask, hs, hv, if_true, if_false,
        Bool.false_eq_true, clearBits, BitVec.getLsbD_or, BitVec.getLsbD_and, BitVec.getLsbD_not, bitMask_getLsbD,
        hj, ho, decide_true, Bool.true_and, Bool.and_true, Bool.and_false, Bool.not_true, Bool.not_false,
        Bool.or_false, Bool.false_or, and_true, and_false]
  · have h1 : ∀ b : Byte, b.getLsbD j = false := fun b => BitVec.getLsbD_of_ge _ _ (by omega)
    simp [h1]

/-- Rule R71: a status write clears TXC exactly where the written byte has it set. -/
theorem isset_statusWritten_txc (c : Config) (status v : Byte) :
    isset (statusWritten c status v) (txcMask c) = (isset status (txcMask c) && !isset v (txcMask c)) := by
  simp only [txcMask, isset_bitMask, statusWritten_getLsbD, otherMask_getLsbD]
  simp

/-- Rule R71, corner 3: a status write never changes RXC. -/
theorem isset_statusWritten_rxc (c : Config) (h : c.txcBit ≠ c.rxcBit) (status v : Byte) :
    isset (statusWritten c status v) (rxcMask c) = isset status (rxcMask c) := by
  have hv : c.txcBit.val ≠ c.rxcBit.val := fun hv => h (Fin.ext hv)
  simp only [rxcMask, isset_bitMask, statusWritten_getLsbD, otherMask_getLsbD]
  simp [hv]

/-- Rule R71, corner 4: a status write never changes the stored DRE bit. -/
theorem isset_statusWritten_dre (c : Config) (h : c.dreBit ≠ c.txcBit) (status v : Byte) :
    isset (statusWritten c status v) (dreMask c) = isset status (dreMask c) := by
  have hv : c.txcBit.val ≠ c.dreBit.val := fun hv => h (Fin.ext hv.symm)
  simp only [dreMask, isset_bitMask, statusWritten_getLsbD, otherMask_getLsbD]
  simp [hv]

/-- Rule R75: a transmission sets TXC exactly under `TXC_SET_ON_WRITE`. -/
theorem isset_statusAfterTransmit_txc (c : Config) (status : Byte) :
    isset (statusAfterTransmit c status) (txcMask c) = (c.txcSetOnWrite || isset status (txcMask c)) := by
  unfold statusAfterTransmit
  cases h : c.txcSetOnWrite
  · simp
  · simp [txcMask, isset_setBits_self]

/-- Rule R75: a transmission never changes another bit than TXC. -/
theorem isset_statusAfterTransmit_other (c : Config) {i : Fin 8} (h : c.txcBit ≠ i) (status : Byte) :
    isset (statusAfterTransmit c status) (bitMask i) = isset status (bitMask i) := by
  unfold statusAfterTransmit
  split
  · exact isset_setBits_other _ h
  · rfl

/-- A masked byte is determined by its bits under the mask. -/
theorem and_eq_and_iff (a b m : Byte) :
    a &&& m = b &&& m ↔ ∀ j, j < 8 → m.getLsbD j = true → a.getLsbD j = b.getLsbD j := by
  constructor
  · intro h j _ hm
    have := congrArg (fun x : Byte => x.getLsbD j) h
    simpa only [BitVec.getLsbD_and, hm, Bool.and_true] using this
  · intro h
    apply BitVec.eq_of_getLsbD_eq
    intro j hj
    simp only [BitVec.getLsbD_and]
    cases hm : m.getLsbD j
    · simp only [Bool.and_false]
    · simp only [h j hj hm]

/-- Setting a bit outside a mask keeps what the mask shows. -/
theorem setBits_and_of_not {i : Fin 8} {m : Byte} (h : m.getLsbD i.val = false) (b : Byte) :
    setBits b (bitMask i) &&& m = b &&& m := by
  rw [and_eq_and_iff]
  intro j _ hm
  have hne : i.val ≠ j := by rintro rfl; rw [h] at hm; cases hm
  simp only [setBits, BitVec.getLsbD_or, bitMask_getLsbD, hne, decide_false, Bool.or_false]

/-- Clearing a bit outside a mask keeps what the mask shows. -/
theorem clearBits_and_of_not {i : Fin 8} {m : Byte} (h : m.getLsbD i.val = false) (b : Byte) :
    clearBits b (bitMask i) &&& m = b &&& m := by
  rw [and_eq_and_iff]
  intro j hj hm
  have hne : i.val ≠ j := by rintro rfl; rw [h] at hm; cases hm
  simp only [clearBits, BitVec.getLsbD_and, BitVec.getLsbD_not, bitMask_getLsbD, hne, decide_false, hj, decide_true,
    Bool.not_false, Bool.and_true]

/-- Rule R46: a status write repeated is a status write once. -/
theorem statusWritten_idem (c : Config) (status v : Byte) :
    statusWritten c (statusWritten c status v) v = statusWritten c status v := by
  apply BitVec.eq_of_getLsbD_eq
  intro j _
  rw [statusWritten_getLsbD, statusWritten_getLsbD]
  split
  · rfl
  · rw [Bool.and_assoc, Bool.and_self]

/-- Rule R27: the five other bits after a status write. -/
theorem statusWritten_and_otherMask (c : Config) (status v : Byte) :
    statusWritten c status v &&& otherMask c = (if c.statusStoreOther then v else status) &&& otherMask c := by
  rw [and_eq_and_iff]
  intro j _ hm
  rw [statusWritten_getLsbD]
  have hm' := hm
  rw [otherMask_getLsbD] at hm'
  simp at hm'
  cases c.statusStoreOther
  · simp [hm, hm']
  · simp [hm]

/-- The three status flags have different positions (rule R7). -/
theorem dre_ne_txc {c : Config} (h : c.WF) : c.dreBit ≠ c.txcBit := h.2.2.2.2.2.2.2.1
theorem dre_ne_rxc {c : Config} (h : c.WF) : c.dreBit ≠ c.rxcBit := h.2.2.2.2.2.2.2.2.1
theorem txc_ne_rxc {c : Config} (h : c.WF) : c.txcBit ≠ c.rxcBit := h.2.2.2.2.2.2.2.2.2.1

/-- DRE reads set whatever is stored (rule R24). -/
theorem isset_statusRead_dre (s : State) : isset (statusRead s) (dreMask s.cfg) = true :=
  isset_setBits_self s.status s.cfg.dreBit

end Sys2Proof.Machine
end

