-- ==== Sys2Proof/Laws/State.lean ====
section
/-! SUPPORT. One lemma per field of State for each named update, so that no later proof unfolds a record update. -/

namespace Sys2Proof.Machine

@[simp] theorem releaseOutputs_cfg (s : State) : (releaseOutputs s).cfg = s.cfg := rfl
@[simp] theorem releaseOutputs_status (s : State) : (releaseOutputs s).status = s.status := rfl
@[simp] theorem releaseOutputs_control (s : State) : (releaseOutputs s).control = s.control := rfl
@[simp] theorem releaseOutputs_inEP (s : State) : (releaseOutputs s).inEP = s.inEP := rfl
@[simp] theorem releaseOutputs_outEP (s : State) : (releaseOutputs s).outEP = s.outEP := rfl
@[simp] theorem releaseOutputs_created (s : State) : (releaseOutputs s).created = s.created := rfl
@[simp] theorem releaseOutputs_endpoints (s : State) : (releaseOutputs s).endpoints = s.endpoints := rfl
@[simp] theorem releaseOutputs_txlog (s : State) : (releaseOutputs s).txlog = s.txlog := rfl
@[simp] theorem releaseOutputs_irqlog (s : State) : (releaseOutputs s).irqlog = s.irqlog := rfl
@[simp] theorem releaseOutputs_handlers (s : State) : (releaseOutputs s).handlers = s.handlers := rfl
@[simp] theorem releaseOutputs_pollEnrolled (s : State) : (releaseOutputs s).pollEnrolled = s.pollEnrolled := rfl
@[simp] theorem releaseOutputs_stimuli (s : State) : (releaseOutputs s).stimuli = s.stimuli := rfl
@[simp] theorem releaseOutputs_out (s : State) : (releaseOutputs s).out = Outputs.idle := rfl
@[simp] theorem releaseOutputs_draws (s : State) : (releaseOutputs s).draws = s.draws := rfl

@[simp] theorem answer_cfg (b : Byte) (s : State) : (answer b s).cfg = s.cfg := rfl
@[simp] theorem answer_status (b : Byte) (s : State) : (answer b s).status = s.status := rfl
@[simp] theorem answer_control (b : Byte) (s : State) : (answer b s).control = s.control := rfl
@[simp] theorem answer_inEP (b : Byte) (s : State) : (answer b s).inEP = s.inEP := rfl
@[simp] theorem answer_outEP (b : Byte) (s : State) : (answer b s).outEP = s.outEP := rfl
@[simp] theorem answer_created (b : Byte) (s : State) : (answer b s).created = s.created := rfl
@[simp] theorem answer_endpoints (b : Byte) (s : State) : (answer b s).endpoints = s.endpoints := rfl
@[simp] theorem answer_txlog (b : Byte) (s : State) : (answer b s).txlog = s.txlog := rfl
@[simp] theorem answer_irqlog (b : Byte) (s : State) : (answer b s).irqlog = s.irqlog := rfl
@[simp] theorem answer_handlers (b : Byte) (s : State) : (answer b s).handlers = s.handlers := rfl
@[simp] theorem answer_pollEnrolled (b : Byte) (s : State) : (answer b s).pollEnrolled = s.pollEnrolled := rfl
@[simp] theorem answer_stimuli (b : Byte) (s : State) : (answer b s).stimuli = s.stimuli := rfl
@[simp] theorem answer_out (b : Byte) (s : State) :
    (answer b s).out = { s.out with rdata := some b } := rfl
@[simp] theorem answer_draws (b : Byte) (s : State) : (answer b s).draws = s.draws := rfl

@[simp] theorem updateEndpoint_cfg (ref : Nat) (f : Endpoint → Endpoint) (s : State) :
    (updateEndpoint ref f s).cfg = s.cfg := rfl
@[simp] theorem updateEndpoint_status (ref : Nat) (f : Endpoint → Endpoint) (s : State) :
    (updateEndpoint ref f s).status = s.status := rfl
@[simp] theorem updateEndpoint_control (ref : Nat) (f : Endpoint → Endpoint) (s : State) :
    (updateEndpoint ref f s).control = s.control := rfl
@[simp] theorem updateEndpoint_inEP (ref : Nat) (f : Endpoint → Endpoint) (s : State) :
    (updateEndpoint ref f s).inEP = s.inEP := rfl
@[simp] theorem updateEndpoint_outEP (ref : Nat) (f : Endpoint → Endpoint) (s : State) :
    (updateEndpoint ref f s).outEP = s.outEP := rfl
@[simp] theorem updateEndpoint_created (ref : Nat) (f : Endpoint → Endpoint) (s : State) :
    (updateEndpoint ref f s).created = s.created := rfl
@[simp] theorem updateEndpoint_endpoints (ref : Nat) (f : Endpoint → Endpoint) (s : State) :
    (updateEndpoint ref f s).endpoints = s.endpoints.modify ref f := rfl
@[simp] theorem updateEndpoint_txlog (ref : Nat) (f : Endpoint → Endpoint) (s : State) :
    (updateEndpoint ref f s).txlog = s.txlog := rfl
@[simp] theorem updateEndpoint_irqlog (ref : Nat) (f : Endpoint → Endpoint) (s : State) :
    (updateEndpoint ref f s).irqlog = s.irqlog := rfl
@[simp] theorem updateEndpoint_handlers (ref : Nat) (f : Endpoint → Endpoint) (s : State) :
    (updateEndpoint ref f s).handlers = s.handlers := rfl
@[simp] theorem updateEndpoint_pollEnrolled (ref : Nat) (f : Endpoint → Endpoint) (s : State) :
    (updateEndpoint ref f s).pollEnrolled = s.pollEnrolled := rfl
@[simp] theorem updateEndpoint_stimuli (ref : Nat) (f : Endpoint → Endpoint) (s : State) :
    (updateEndpoint ref f s).stimuli = s.stimuli := rfl
@[simp] theorem updateEndpoint_out (ref : Nat) (f : Endpoint → Endpoint) (s : State) :
    (updateEndpoint ref f s).out = s.out := rfl
@[simp] theorem updateEndpoint_draws (ref : Nat) (f : Endpoint → Endpoint) (s : State) :
    (updateEndpoint ref f s).draws = s.draws := rfl

@[simp] theorem spendDraw_cfg (s : State) : (spendDraw s).cfg = s.cfg := rfl
@[simp] theorem spendDraw_status (s : State) : (spendDraw s).status = s.status := rfl
@[simp] theorem spendDraw_control (s : State) : (spendDraw s).control = s.control := rfl
@[simp] theorem spendDraw_inEP (s : State) : (spendDraw s).inEP = s.inEP := rfl
@[simp] theorem spendDraw_outEP (s : State) : (spendDraw s).outEP = s.outEP := rfl
@[simp] theorem spendDraw_created (s : State) : (spendDraw s).created = s.created := rfl
@[simp] theorem spendDraw_endpoints (s : State) : (spendDraw s).endpoints = s.endpoints := rfl
@[simp] theorem spendDraw_txlog (s : State) : (spendDraw s).txlog = s.txlog := rfl
@[simp] theorem spendDraw_irqlog (s : State) : (spendDraw s).irqlog = s.irqlog := rfl
@[simp] theorem spendDraw_handlers (s : State) : (spendDraw s).handlers = s.handlers := rfl
@[simp] theorem spendDraw_pollEnrolled (s : State) : (spendDraw s).pollEnrolled = s.pollEnrolled := rfl
@[simp] theorem spendDraw_stimuli (s : State) : (spendDraw s).stimuli = s.stimuli := rfl
@[simp] theorem spendDraw_out (s : State) : (spendDraw s).out = s.out := rfl
@[simp] theorem spendDraw_draws (s : State) : (spendDraw s).draws = s.draws + 1 := rfl

@[simp] theorem requestInterrupt_cfg (line : Nat) (s : State) : (requestInterrupt line s).cfg = s.cfg := rfl
@[simp] theorem requestInterrupt_status (line : Nat) (s : State) : (requestInterrupt line s).status = s.status := rfl
@[simp] theorem requestInterrupt_control (line : Nat) (s : State) : (requestInterrupt line s).control = s.control := rfl
@[simp] theorem requestInterrupt_inEP (line : Nat) (s : State) : (requestInterrupt line s).inEP = s.inEP := rfl
@[simp] theorem requestInterrupt_outEP (line : Nat) (s : State) : (requestInterrupt line s).outEP = s.outEP := rfl
@[simp] theorem requestInterrupt_created (line : Nat) (s : State) : (requestInterrupt line s).created = s.created := rfl
@[simp] theorem requestInterrupt_endpoints (line : Nat) (s : State) : (requestInterrupt line s).endpoints = s.endpoints := rfl
@[simp] theorem requestInterrupt_txlog (line : Nat) (s : State) : (requestInterrupt line s).txlog = s.txlog := rfl
@[simp] theorem requestInterrupt_irqlog (line : Nat) (s : State) :
    (requestInterrupt line s).irqlog = s.irqlog ++ [line] := rfl
@[simp] theorem requestInterrupt_handlers (line : Nat) (s : State) : (requestInterrupt line s).handlers = s.handlers := rfl
@[simp] theorem requestInterrupt_pollEnrolled (line : Nat) (s : State) :
    (requestInterrupt line s).pollEnrolled = s.pollEnrolled := rfl
@[simp] theorem requestInterrupt_stimuli (line : Nat) (s : State) : (requestInterrupt line s).stimuli = s.stimuli := rfl
@[simp] theorem requestInterrupt_out (line : Nat) (s : State) :
    (requestInterrupt line s).out = { s.out with irqReq := some line } := rfl
@[simp] theorem requestInterrupt_draws (line : Nat) (s : State) : (requestInterrupt line s).draws = s.draws := rfl

@[simp] theorem registerHandler_cfg (addr : Nat) (r : Register) (s : State) :
    (registerHandler addr r s).cfg = s.cfg := rfl
@[simp] theorem registerHandler_status (addr : Nat) (r : Register) (s : State) :
    (registerHandler addr r s).status = s.status := rfl
@[simp] theorem registerHandler_control (addr : Nat) (r : Register) (s : State) :
    (registerHandler addr r s).control = s.control := rfl
@[simp] theorem registerHandler_inEP (addr : Nat) (r : Register) (s : State) :
    (registerHandler addr r s).inEP = s.inEP := rfl
@[simp] theorem registerHandler_outEP (addr : Nat) (r : Register) (s : State) :
    (registerHandler addr r s).outEP = s.outEP := rfl
@[simp] theorem registerHandler_created (addr : Nat) (r : Register) (s : State) :
    (registerHandler addr r s).created = s.created := rfl
@[simp] theorem registerHandler_endpoints (addr : Nat) (r : Register) (s : State) :
    (registerHandler addr r s).endpoints = s.endpoints := rfl
@[simp] theorem registerHandler_txlog (addr : Nat) (r : Register) (s : State) :
    (registerHandler addr r s).txlog = s.txlog := rfl
@[simp] theorem registerHandler_irqlog (addr : Nat) (r : Register) (s : State) :
    (registerHandler addr r s).irqlog = s.irqlog := rfl
@[simp] theorem registerHandler_handlers (addr : Nat) (r : Register) (s : State) :
    (registerHandler addr r s).handlers = s.handlers ++ [(addr, r)] := rfl
@[simp] theorem registerHandler_pollEnrolled (addr : Nat) (r : Register) (s : State) :
    (registerHandler addr r s).pollEnrolled = s.pollEnrolled := rfl
@[simp] theorem registerHandler_stimuli (addr : Nat) (r : Register) (s : State) :
    (registerHandler addr r s).stimuli = s.stimuli := rfl
@[simp] theorem registerHandler_out (addr : Nat) (r : Register) (s : State) :
    (registerHandler addr r s).out = s.out := rfl
@[simp] theorem registerHandler_draws (addr : Nat) (r : Register) (s : State) :
    (registerHandler addr r s).draws = s.draws := rfl

@[simp] theorem registerPollable_cfg (s : State) : (registerPollable s).cfg = s.cfg := rfl
@[simp] theorem registerPollable_status (s : State) : (registerPollable s).status = s.status := rfl
@[simp] theorem registerPollable_control (s : State) : (registerPollable s).control = s.control := rfl
@[simp] theorem registerPollable_inEP (s : State) : (registerPollable s).inEP = s.inEP := rfl
@[simp] theorem registerPollable_outEP (s : State) : (registerPollable s).outEP = s.outEP := rfl
@[simp] theorem registerPollable_created (s : State) : (registerPollable s).created = s.created := rfl
@[simp] theorem registerPollable_endpoints (s : State) : (registerPollable s).endpoints = s.endpoints := rfl
@[simp] theorem registerPollable_txlog (s : State) : (registerPollable s).txlog = s.txlog := rfl
@[simp] theorem registerPollable_irqlog (s : State) : (registerPollable s).irqlog = s.irqlog := rfl
@[simp] theorem registerPollable_handlers (s : State) : (registerPollable s).handlers = s.handlers := rfl
@[simp] theorem registerPollable_pollEnrolled (s : State) : (registerPollable s).pollEnrolled = true := rfl
@[simp] theorem registerPollable_stimuli (s : State) : (registerPollable s).stimuli = s.stimuli := rfl
@[simp] theorem registerPollable_out (s : State) : (registerPollable s).out = s.out := rfl
@[simp] theorem registerPollable_draws (s : State) : (registerPollable s).draws = s.draws := rfl

@[simp] theorem raiseConfigurationError_cfg (ref : Nat) (s : State) : (raiseConfigurationError ref s).cfg = s.cfg := rfl
@[simp] theorem raiseConfigurationError_status (ref : Nat) (s : State) : (raiseConfigurationError ref s).status = s.status := rfl
@[simp] theorem raiseConfigurationError_control (ref : Nat) (s : State) :
    (raiseConfigurationError ref s).control = s.control := rfl
@[simp] theorem raiseConfigurationError_inEP (ref : Nat) (s : State) : (raiseConfigurationError ref s).inEP = s.inEP := rfl
@[simp] theorem raiseConfigurationError_outEP (ref : Nat) (s : State) : (raiseConfigurationError ref s).outEP = s.outEP := rfl
@[simp] theorem raiseConfigurationError_created (ref : Nat) (s : State) :
    (raiseConfigurationError ref s).created = s.created := rfl
@[simp] theorem raiseConfigurationError_endpoints (ref : Nat) (s : State) :
    (raiseConfigurationError ref s).endpoints = s.endpoints := rfl
@[simp] theorem raiseConfigurationError_txlog (ref : Nat) (s : State) : (raiseConfigurationError ref s).txlog = s.txlog := rfl
@[simp] theorem raiseConfigurationError_irqlog (ref : Nat) (s : State) : (raiseConfigurationError ref s).irqlog = s.irqlog := rfl
@[simp] theorem raiseConfigurationError_handlers (ref : Nat) (s : State) :
    (raiseConfigurationError ref s).handlers = s.handlers := rfl
@[simp] theorem raiseConfigurationError_pollEnrolled (ref : Nat) (s : State) :
    (raiseConfigurationError ref s).pollEnrolled = s.pollEnrolled := rfl
@[simp] theorem raiseConfigurationError_stimuli (ref : Nat) (s : State) :
    (raiseConfigurationError ref s).stimuli = s.stimuli := rfl
@[simp] theorem raiseConfigurationError_out (ref : Nat) (s : State) :
    (raiseConfigurationError ref s).out = { s.out with raised := some (.configurationError ref) } := rfl
@[simp] theorem raiseConfigurationError_draws (ref : Nat) (s : State) : (raiseConfigurationError ref s).draws = s.draws := rfl

@[simp] theorem rebindOutput_cfg (ref : Nat) (s : State) : (rebindOutput ref s).cfg = s.cfg := rfl
@[simp] theorem rebindOutput_status (ref : Nat) (s : State) : (rebindOutput ref s).status = s.status := rfl
@[simp] theorem rebindOutput_control (ref : Nat) (s : State) : (rebindOutput ref s).control = s.control := rfl
@[simp] theorem rebindOutput_inEP (ref : Nat) (s : State) : (rebindOutput ref s).inEP = s.inEP := rfl
@[simp] theorem rebindOutput_outEP (ref : Nat) (s : State) : (rebindOutput ref s).outEP = ref := rfl
@[simp] theorem rebindOutput_created (ref : Nat) (s : State) : (rebindOutput ref s).created = s.created := rfl
@[simp] theorem rebindOutput_endpoints (ref : Nat) (s : State) : (rebindOutput ref s).endpoints = s.endpoints := rfl
@[simp] theorem rebindOutput_txlog (ref : Nat) (s : State) : (rebindOutput ref s).txlog = s.txlog := rfl
@[simp] theorem rebindOutput_irqlog (ref : Nat) (s : State) : (rebindOutput ref s).irqlog = s.irqlog := rfl
@[simp] theorem rebindOutput_handlers (ref : Nat) (s : State) : (rebindOutput ref s).handlers = s.handlers := rfl
@[simp] theorem rebindOutput_pollEnrolled (ref : Nat) (s : State) : (rebindOutput ref s).pollEnrolled = s.pollEnrolled := rfl
@[simp] theorem rebindOutput_stimuli (ref : Nat) (s : State) : (rebindOutput ref s).stimuli = s.stimuli := rfl
@[simp] theorem rebindOutput_out (ref : Nat) (s : State) : (rebindOutput ref s).out = s.out := rfl
@[simp] theorem rebindOutput_draws (ref : Nat) (s : State) : (rebindOutput ref s).draws = s.draws := rfl

@[simp] theorem initialRecord_cfg (s : State) : (initialRecord s).cfg = s.cfg := rfl
@[simp] theorem initialRecord_status (s : State) : (initialRecord s).status = s.cfg.statusReset := rfl
@[simp] theorem initialRecord_control (s : State) : (initialRecord s).control = s.cfg.controlReset := rfl
@[simp] theorem initialRecord_inEP (s : State) : (initialRecord s).inEP = standardInput := rfl
@[simp] theorem initialRecord_outEP (s : State) : (initialRecord s).outEP = standardOutput := rfl
@[simp] theorem initialRecord_created (s : State) : (initialRecord s).created = true := rfl
@[simp] theorem initialRecord_endpoints (s : State) : (initialRecord s).endpoints = s.endpoints := rfl
@[simp] theorem initialRecord_txlog (s : State) : (initialRecord s).txlog = [] := rfl
@[simp] theorem initialRecord_irqlog (s : State) : (initialRecord s).irqlog = [] := rfl
@[simp] theorem initialRecord_handlers (s : State) : (initialRecord s).handlers = s.handlers := rfl
@[simp] theorem initialRecord_pollEnrolled (s : State) : (initialRecord s).pollEnrolled = s.pollEnrolled := rfl
@[simp] theorem initialRecord_stimuli (s : State) : (initialRecord s).stimuli = s.stimuli := rfl
@[simp] theorem initialRecord_out (s : State) : (initialRecord s).out = s.out := rfl
@[simp] theorem initialRecord_draws (s : State) : (initialRecord s).draws = s.draws := rfl

@[simp] theorem registerBlock_cfg (s : State) : (registerBlock s).cfg = s.cfg := rfl
@[simp] theorem registerBlock_status (s : State) : (registerBlock s).status = s.status := rfl
@[simp] theorem registerBlock_control (s : State) : (registerBlock s).control = s.control := rfl
@[simp] theorem registerBlock_inEP (s : State) : (registerBlock s).inEP = s.inEP := rfl
@[simp] theorem registerBlock_outEP (s : State) : (registerBlock s).outEP = s.outEP := rfl
@[simp] theorem registerBlock_created (s : State) : (registerBlock s).created = s.created := rfl
@[simp] theorem registerBlock_endpoints (s : State) : (registerBlock s).endpoints = s.endpoints := rfl
@[simp] theorem registerBlock_txlog (s : State) : (registerBlock s).txlog = s.txlog := rfl
@[simp] theorem registerBlock_irqlog (s : State) : (registerBlock s).irqlog = s.irqlog := rfl
@[simp] theorem registerBlock_handlers (s : State) :
    (registerBlock s).handlers = ((s.handlers ++ [(s.cfg.addrStatus, .status)]) ++ [(s.cfg.addrControl, .control)]) ++ [(s.cfg.addrData, .data)] := rfl
@[simp] theorem registerBlock_pollEnrolled (s : State) : (registerBlock s).pollEnrolled = true := rfl
@[simp] theorem registerBlock_stimuli (s : State) : (registerBlock s).stimuli = s.stimuli := rfl
@[simp] theorem registerBlock_out (s : State) : (registerBlock s).out = s.out := rfl
@[simp] theorem registerBlock_draws (s : State) : (registerBlock s).draws = s.draws := rfl

@[simp] theorem idle_rdata : Outputs.idle.rdata = none := rfl
@[simp] theorem idle_rxTake : Outputs.idle.rxTake = false := rfl
@[simp] theorem idle_txPut : Outputs.idle.txPut = none := rfl
@[simp] theorem idle_irqReq : Outputs.idle.irqReq = none := rfl
@[simp] theorem idle_raised : Outputs.idle.raised = none := rfl

/-! The endpoint primitives: what they leave alone. -/

@[simp] theorem afterRxAvail_cfg (s : State) : (afterRxAvail s).cfg = s.cfg := by
  unfold afterRxAvail; split <;> rfl
@[simp] theorem afterRxAvail_status (s : State) : (afterRxAvail s).status = s.status := by
  unfold afterRxAvail; split <;> rfl
@[simp] theorem afterRxAvail_control (s : State) : (afterRxAvail s).control = s.control := by
  unfold afterRxAvail; split <;> rfl
@[simp] theorem afterRxAvail_inEP (s : State) : (afterRxAvail s).inEP = s.inEP := by
  unfold afterRxAvail; split <;> rfl
@[simp] theorem afterRxAvail_outEP (s : State) : (afterRxAvail s).outEP = s.outEP := by
  unfold afterRxAvail; split <;> rfl
@[simp] theorem afterRxAvail_created (s : State) : (afterRxAvail s).created = s.created := by
  unfold afterRxAvail; split <;> rfl
@[simp] theorem afterRxAvail_endpoints (s : State) : (afterRxAvail s).endpoints = s.endpoints := by
  unfold afterRxAvail; split <;> rfl
@[simp] theorem afterRxAvail_txlog (s : State) : (afterRxAvail s).txlog = s.txlog := by
  unfold afterRxAvail; split <;> rfl
@[simp] theorem afterRxAvail_irqlog (s : State) : (afterRxAvail s).irqlog = s.irqlog := by
  unfold afterRxAvail; split <;> rfl
@[simp] theorem afterRxAvail_handlers (s : State) : (afterRxAvail s).handlers = s.handlers := by
  unfold afterRxAvail; split <;> rfl
@[simp] theorem afterRxAvail_pollEnrolled (s : State) : (afterRxAvail s).pollEnrolled = s.pollEnrolled := by
  unfold afterRxAvail; split <;> rfl
@[simp] theorem afterRxAvail_stimuli (s : State) : (afterRxAvail s).stimuli = s.stimuli := by
  unfold afterRxAvail; split <;> rfl
@[simp] theorem afterRxAvail_out (s : State) : (afterRxAvail s).out = s.out := by
  unfold afterRxAvail; split <;> rfl
@[simp] theorem afterRxAvail_draws (s : State) :
    (afterRxAvail s).draws = if boundToHostStream s then s.draws + 1 else s.draws := by
  unfold afterRxAvail; split <;> rfl

@[simp] theorem afterRxRead_cfg (s : State) : (afterRxRead s).cfg = s.cfg := by
  unfold afterRxRead; cases rxAnswer s <;> cases boundToHostStream s <;> rfl
@[simp] theorem afterRxRead_status (s : State) : (afterRxRead s).status = s.status := by
  unfold afterRxRead; cases rxAnswer s <;> cases boundToHostStream s <;> rfl
@[simp] theorem afterRxRead_control (s : State) : (afterRxRead s).control = s.control := by
  unfold afterRxRead; cases rxAnswer s <;> cases boundToHostStream s <;> rfl
@[simp] theorem afterRxRead_inEP (s : State) : (afterRxRead s).inEP = s.inEP := by
  unfold afterRxRead; cases rxAnswer s <;> cases boundToHostStream s <;> rfl
@[simp] theorem afterRxRead_outEP (s : State) : (afterRxRead s).outEP = s.outEP := by
  unfold afterRxRead; cases rxAnswer s <;> cases boundToHostStream s <;> rfl
@[simp] theorem afterRxRead_created (s : State) : (afterRxRead s).created = s.created := by
  unfold afterRxRead; cases rxAnswer s <;> cases boundToHostStream s <;> rfl
@[simp] theorem afterRxRead_txlog (s : State) : (afterRxRead s).txlog = s.txlog := by
  unfold afterRxRead; cases rxAnswer s <;> cases boundToHostStream s <;> rfl
@[simp] theorem afterRxRead_irqlog (s : State) : (afterRxRead s).irqlog = s.irqlog := by
  unfold afterRxRead; cases rxAnswer s <;> cases boundToHostStream s <;> rfl
@[simp] theorem afterRxRead_handlers (s : State) : (afterRxRead s).handlers = s.handlers := by
  unfold afterRxRead; cases rxAnswer s <;> cases boundToHostStream s <;> rfl
@[simp] theorem afterRxRead_pollEnrolled (s : State) : (afterRxRead s).pollEnrolled = s.pollEnrolled := by
  unfold afterRxRead; cases rxAnswer s <;> cases boundToHostStream s <;> rfl
@[simp] theorem afterRxRead_stimuli (s : State) : (afterRxRead s).stimuli = s.stimuli := by
  unfold afterRxRead; cases rxAnswer s <;> cases boundToHostStream s <;> rfl
@[simp] theorem afterRxRead_endpoints (s : State) :
    (afterRxRead s).endpoints =
      if (rxAnswer s).isSome then s.endpoints.modify s.inEP Endpoint.dropOldest else s.endpoints := by
  unfold afterRxRead; cases rxAnswer s <;> cases boundToHostStream s <;> rfl
@[simp] theorem afterRxRead_out (s : State) : (afterRxRead s).out = { s.out with rxTake := true } := by
  unfold afterRxRead; cases rxAnswer s <;> cases boundToHostStream s <;> rfl
@[simp] theorem afterRxRead_draws (s : State) :
    (afterRxRead s).draws = if boundToHostStream s then s.draws + 1 else s.draws := by
  unfold afterRxRead; cases rxAnswer s <;> cases boundToHostStream s <;> rfl

@[simp] theorem txWrite_cfg (b : Byte) (s : State) : (txWrite b s).cfg = s.cfg := by
  unfold txWrite; cases txAccepted s <;> cases outputDraws s <;> rfl
@[simp] theorem txWrite_status (b : Byte) (s : State) : (txWrite b s).status = s.status := by
  unfold txWrite; cases txAccepted s <;> cases outputDraws s <;> rfl
@[simp] theorem txWrite_control (b : Byte) (s : State) : (txWrite b s).control = s.control := by
  unfold txWrite; cases txAccepted s <;> cases outputDraws s <;> rfl
@[simp] theorem txWrite_inEP (b : Byte) (s : State) : (txWrite b s).inEP = s.inEP := by
  unfold txWrite; cases txAccepted s <;> cases outputDraws s <;> rfl
@[simp] theorem txWrite_outEP (b : Byte) (s : State) : (txWrite b s).outEP = s.outEP := by
  unfold txWrite; cases txAccepted s <;> cases outputDraws s <;> rfl
@[simp] theorem txWrite_created (b : Byte) (s : State) : (txWrite b s).created = s.created := by
  unfold txWrite; cases txAccepted s <;> cases outputDraws s <;> rfl
@[simp] theorem txWrite_irqlog (b : Byte) (s : State) : (txWrite b s).irqlog = s.irqlog := by
  unfold txWrite; cases txAccepted s <;> cases outputDraws s <;> rfl
@[simp] theorem txWrite_handlers (b : Byte) (s : State) : (txWrite b s).handlers = s.handlers := by
  unfold txWrite; cases txAccepted s <;> cases outputDraws s <;> rfl
@[simp] theorem txWrite_pollEnrolled (b : Byte) (s : State) : (txWrite b s).pollEnrolled = s.pollEnrolled := by
  unfold txWrite; cases txAccepted s <;> cases outputDraws s <;> rfl
@[simp] theorem txWrite_stimuli (b : Byte) (s : State) : (txWrite b s).stimuli = s.stimuli := by
  unfold txWrite; cases txAccepted s <;> cases outputDraws s <;> rfl
@[simp] theorem txWrite_endpoints (b : Byte) (s : State) :
    (txWrite b s).endpoints =
      if txAccepted s then s.endpoints.modify s.outEP (Endpoint.receive b) else s.endpoints := by
  unfold txWrite; cases txAccepted s <;> cases outputDraws s <;> rfl
@[simp] theorem txWrite_txlog (b : Byte) (s : State) : (txWrite b s).txlog = s.txlog ++ [(s.outEP, b)] := by
  unfold txWrite; cases txAccepted s <;> cases outputDraws s <;> rfl
@[simp] theorem txWrite_out (b : Byte) (s : State) : (txWrite b s).out = { s.out with txPut := some b } := by
  unfold txWrite; cases txAccepted s <;> cases outputDraws s <;> rfl
@[simp] theorem txWrite_draws (b : Byte) (s : State) :
    (txWrite b s).draws = if outputDraws s then s.draws + 1 else s.draws := by
  unfold txWrite; cases txAccepted s <;> cases outputDraws s <;> rfl

/-! What a rebind, a detection and a consumption leave alone. -/

@[simp] theorem rebindInput_cfg (ref : Nat) (s : State) : (rebindInput ref s).cfg = s.cfg := by
  unfold rebindInput; split <;> rfl
@[simp] theorem rebindInput_status (ref : Nat) (s : State) : (rebindInput ref s).status = s.status := by
  unfold rebindInput; split <;> rfl
@[simp] theorem rebindInput_control (ref : Nat) (s : State) : (rebindInput ref s).control = s.control := by
  unfold rebindInput; split <;> rfl
@[simp] theorem rebindInput_outEP (ref : Nat) (s : State) : (rebindInput ref s).outEP = s.outEP := by
  unfold rebindInput; split <;> rfl
@[simp] theorem rebindInput_created (ref : Nat) (s : State) : (rebindInput ref s).created = s.created := by
  unfold rebindInput; split <;> rfl
@[simp] theorem rebindInput_endpoints (ref : Nat) (s : State) : (rebindInput ref s).endpoints = s.endpoints := by
  unfold rebindInput; split <;> rfl
@[simp] theorem rebindInput_txlog (ref : Nat) (s : State) : (rebindInput ref s).txlog = s.txlog := by
  unfold rebindInput; split <;> rfl
@[simp] theorem rebindInput_irqlog (ref : Nat) (s : State) : (rebindInput ref s).irqlog = s.irqlog := by
  unfold rebindInput; split <;> rfl
@[simp] theorem rebindInput_handlers (ref : Nat) (s : State) : (rebindInput ref s).handlers = s.handlers := by
  unfold rebindInput; split <;> rfl
@[simp] theorem rebindInput_pollEnrolled (ref : Nat) (s : State) : (rebindInput ref s).pollEnrolled = s.pollEnrolled := by
  unfold rebindInput; split <;> rfl
@[simp] theorem rebindInput_stimuli (ref : Nat) (s : State) : (rebindInput ref s).stimuli = s.stimuli := by
  unfold rebindInput; split <;> rfl
@[simp] theorem rebindInput_draws (ref : Nat) (s : State) : (rebindInput ref s).draws = s.draws := by
  unfold rebindInput; split <;> rfl
@[simp] theorem rebindInput_inEP (ref : Nat) (s : State) :
    (rebindInput ref s).inEP = if inputSupported s ref then ref else s.inEP := by
  unfold rebindInput; split <;> rfl

@[simp] theorem detectInput_cfg (s : State) : (detectInput s).cfg = s.cfg := by
  unfold detectInput; split <;> rfl
@[simp] theorem detectInput_control (s : State) : (detectInput s).control = s.control := by
  unfold detectInput; split <;> rfl
@[simp] theorem detectInput_inEP (s : State) : (detectInput s).inEP = s.inEP := by
  unfold detectInput; split <;> rfl
@[simp] theorem detectInput_outEP (s : State) : (detectInput s).outEP = s.outEP := by
  unfold detectInput; split <;> rfl
@[simp] theorem detectInput_created (s : State) : (detectInput s).created = s.created := by
  unfold detectInput; split <;> rfl
@[simp] theorem detectInput_endpoints (s : State) : (detectInput s).endpoints = s.endpoints := by
  unfold detectInput; split <;> rfl
@[simp] theorem detectInput_txlog (s : State) : (detectInput s).txlog = s.txlog := by
  unfold detectInput; split <;> rfl
@[simp] theorem detectInput_handlers (s : State) : (detectInput s).handlers = s.handlers := by
  unfold detectInput; split <;> rfl
@[simp] theorem detectInput_pollEnrolled (s : State) : (detectInput s).pollEnrolled = s.pollEnrolled := by
  unfold detectInput; split <;> rfl
@[simp] theorem detectInput_stimuli (s : State) : (detectInput s).stimuli = s.stimuli := by
  unfold detectInput; split <;> rfl
@[simp] theorem detectInput_draws (s : State) : (detectInput s).draws = s.draws := by
  unfold detectInput; split <;> rfl
@[simp] theorem detectInput_status (s : State) :
    (detectInput s).status = setBits s.status (rxcMask s.cfg) := by
  unfold detectInput; split <;> rfl
@[simp] theorem detectInput_irqlog (s : State) :
    (detectInput s).irqlog = if !rxcSet s && rxcieSet s then s.irqlog ++ [s.cfg.rxIrqLine] else s.irqlog := by
  unfold detectInput; split <;> rfl
@[simp] theorem detectInput_out (s : State) :
    (detectInput s).out =
      if !rxcSet s && rxcieSet s then { s.out with irqReq := some s.cfg.rxIrqLine } else s.out := by
  unfold detectInput; split <;> rfl

@[simp] theorem consumeByte_cfg (s : State) : (consumeByte s).cfg = s.cfg := by simp [consumeByte]
@[simp] theorem consumeByte_control (s : State) : (consumeByte s).control = s.control := by simp [consumeByte]
@[simp] theorem consumeByte_inEP (s : State) : (consumeByte s).inEP = s.inEP := by simp [consumeByte]
@[simp] theorem consumeByte_outEP (s : State) : (consumeByte s).outEP = s.outEP := by simp [consumeByte]
@[simp] theorem consumeByte_created (s : State) : (consumeByte s).created = s.created := by simp [consumeByte]
@[simp] theorem consumeByte_txlog (s : State) : (consumeByte s).txlog = s.txlog := by simp [consumeByte]
@[simp] theorem consumeByte_irqlog (s : State) : (consumeByte s).irqlog = s.irqlog := by simp [consumeByte]
@[simp] theorem consumeByte_handlers (s : State) : (consumeByte s).handlers = s.handlers := by simp [consumeByte]
@[simp] theorem consumeByte_pollEnrolled (s : State) : (consumeByte s).pollEnrolled = s.pollEnrolled := by simp [consumeByte]
@[simp] theorem consumeByte_stimuli (s : State) : (consumeByte s).stimuli = s.stimuli := by simp [consumeByte]
@[simp] theorem consumeByte_status (s : State) :
    (consumeByte s).status = clearBits s.status (rxcMask s.cfg) := by simp [consumeByte]
@[simp] theorem consumeByte_endpoints (s : State) :
    (consumeByte s).endpoints =
      if (rxAnswer s).isSome then s.endpoints.modify s.inEP Endpoint.dropOldest else s.endpoints := by
  simp only [consumeByte, answer_endpoints, afterRxRead_endpoints]; rfl
@[simp] theorem consumeByte_draws (s : State) :
    (consumeByte s).draws = if boundToHostStream s then s.draws + 1 else s.draws := by
  simp only [consumeByte, answer_draws, afterRxRead_draws]; rfl
@[simp] theorem consumeByte_out (s : State) :
    (consumeByte s).out = { s.out with rxTake := true, rdata := some ((rxAnswer s).getD 0x00#8) } := by
  simp only [consumeByte, answer_out, afterRxRead_out]; rfl

end Sys2Proof.Machine
end

