-- ==== Sys2Proof/Laws/Ops.lean ====
section
/-! SUPPORT. For each shared operation, once, everything it can do; callers cite these and do not unfold it. -/

namespace Sys2Proof.Machine

/-- An operation that requires `created` answers a next state exactly when the block exists and the operation's own result is that state. -/
theorem requireCreated_eq_next {op : String} {s t : State} {r : Result} :
    requireCreated op s r = .next t ↔ s.created = true ∧ r = .next t := by
  unfold requireCreated
  cases s.created <;> simp

/-- The same for an operation whose result is always a next state. -/
theorem requireCreated_next_eq_next {op : String} {s t u : State} :
    requireCreated op s (.next u) = .next t ↔ s.created = true ∧ t = u := by
  rw [requireCreated_eq_next, Host.Outcome.next.injEq]
  exact and_congr_right fun _ => ⟨Eq.symm, Eq.symm⟩

/-- The same for an operation that first looks its operand up in the endpoint table. -/
theorem requireCreated_ite_eq_next {op : String} {s t u : State} {p : Prop} [Decidable p] {why : Refusal} :
    requireCreated op s (if p then .next u else .refused why) = .next t ↔ s.created = true ∧ p ∧ t = u := by
  rw [requireCreated_eq_next]
  by_cases h : p
  · simpa [h] using fun _ => ⟨Eq.symm, Eq.symm⟩
  · simp [h]

/-- On a created block the requirement is no obstacle. -/
@[simp] theorem requireCreated_of_created {op : String} {s : State} (h : s.created = true) (r : Result) :
    requireCreated op s r = r := by simp [requireCreated, h]

/-- Before `create` every such operation faults (rule R100). -/
@[simp] theorem requireCreated_of_not_created {op : String} {s : State} (h : s.created = false) (r : Result) :
    requireCreated op s r = .fault (.preconditionViolation op) := by simp [requireCreated, h]

/-- One entry of the endpoint table after `updateEndpoint`. -/
theorem endpointAt_updateEndpoint (s : State) (ref ref' : Nat) (f : Endpoint → Endpoint) :
    endpointAt (updateEndpoint ref f s) ref' =
      if ref = ref' then (endpointAt s ref').map f else endpointAt s ref' := by
  simp only [endpointAt, updateEndpoint, List.getElem?_modify]
  cases s.endpoints[ref']? <;> split <;> simp_all

/-- The entry that was updated. -/
theorem endpointAt_updateEndpoint_self (s : State) (ref : Nat) (f : Endpoint → Endpoint) :
    endpointAt (updateEndpoint ref f s) ref = (endpointAt s ref).map f := by
  simp [endpointAt_updateEndpoint]

/-- The size of the table never changes by `updateEndpoint`. -/
theorem length_updateEndpoint (s : State) (ref : Nat) (f : Endpoint → Endpoint) :
    (updateEndpoint ref f s).endpoints.length = s.endpoints.length := by simp

/-- `endpointAt` looks at the table and at nothing else. -/
theorem endpointAt_congr {s t : State} (h : t.endpoints = s.endpoints) (ref : Nat) :
    endpointAt t ref = endpointAt s ref := by simp [endpointAt, h]

/-- `RxAvail()` depends on the binding, the table and the next draw only. -/
theorem rxAvail_congr {s t : State} (hb : t.inEP = s.inEP) (he : t.endpoints = s.endpoints) (hd : t.draws = s.draws) :
    rxAvail t = rxAvail s := by simp [rxAvail, endpointAt, hb, he, hd]

/-- `RxRead()`'s answer depends on the binding, the table and the next draw only. -/
theorem rxAnswer_congr {s t : State} (hb : t.inEP = s.inEP) (he : t.endpoints = s.endpoints) (hd : t.draws = s.draws) :
    rxAnswer t = rxAnswer s := by simp [rxAnswer, endpointAt, hb, he, hd]

/-- The binding's kind depends on the binding and the table only. -/
theorem boundToHostStream_congr {s t : State} (hb : t.inEP = s.inEP) (he : t.endpoints = s.endpoints) :
    boundToHostStream t = boundToHostStream s := by simp [boundToHostStream, endpointAt, hb, he]

/-- The pending input depends on the binding and the table only. -/
theorem pendingInput_congr {s t : State} (hb : t.inEP = s.inEP) (he : t.endpoints = s.endpoints) :
    pendingInput t = pendingInput s := by simp [pendingInput, endpointAt, hb, he]

/-- The support of a reference depends on the table and the build only. -/
theorem inputSupported_congr {s t : State} (hc : t.cfg = s.cfg) (he : t.endpoints = s.endpoints) (ref : Nat) :
    inputSupported t ref = inputSupported s ref := by simp [inputSupported, endpointAt, hc, he]

/-- Availability on the canonical endpoint (rule R32). -/
theorem rxAvail_canonical {s : State} {ep : Endpoint} (h : endpointAt s s.inEP = some ep) (hk : ep.inputKind = .canonical) :
    rxAvail s = !ep.pending.isEmpty := by simp [rxAvail, h, hk]

/-- The answer of a read on the canonical endpoint (rule R32). -/
theorem rxAnswer_canonical {s : State} {ep : Endpoint} (h : endpointAt s s.inEP = some ep) (hk : ep.inputKind = .canonical) :
    rxAnswer s = ep.pending.head? := by simp [rxAnswer, h, hk]

/-- Nothing is available where nothing is pending, on any endpoint (rules R29, R85). -/
theorem rxAvail_pending {s : State} (h : rxAvail s = true) : pendingInput s ≠ [] := by
  unfold rxAvail at h
  unfold pendingInput
  split at h
  · simp at h
  · rename_i ep hep
    rw [hep]
    intro hp
    simp only at hp
    split at h <;> simp [hp] at h

/-- A byte that is read is the oldest pending one, on any endpoint (rule R30). -/
theorem rxAnswer_head {s : State} {b : Byte} (h : rxAnswer s = some b) : (pendingInput s).head? = some b := by
  unfold rxAnswer at h
  unfold pendingInput
  split at h
  · simp at h
  · rename_i ep hep
    rw [hep]
    split at h
    · exact h
    all_goals first
      | (split at h <;> simp_all)
      | simp at h

/-- The pending input after a read: its oldest byte is gone exactly if one was answered (rule R30). -/
theorem pendingInput_afterRxRead (s : State) :
    (rxAnswer s).toList ++ pendingInput (afterRxRead s) = pendingInput s := by
  cases hb : rxAnswer s with
  | none =>
    simp [pendingInput, endpointAt, hb]
  | some b =>
    have hh := rxAnswer_head hb
    simp only [pendingInput, endpointAt, afterRxRead_endpoints, afterRxRead_inEP, hb, Option.isSome_some, if_true,
      List.getElem?_modify] at hh ⊢
    cases he : s.endpoints[s.inEP]? with
    | none => simp [he] at hh
    | some ep =>
      simp only [he] at hh ⊢
      cases hp : ep.pending with
      | nil => simp [hp] at hh
      | cons a rest => simp_all [Endpoint.dropOldest]

/-- An update that keeps an endpoint's input kind keeps every reference's support. -/
theorem inputSupported_updateEndpoint (s : State) (ref ref' : Nat) {f : Endpoint → Endpoint}
    (hf : ∀ ep, (f ep).inputKind = ep.inputKind) :
    inputSupported (updateEndpoint ref f s) ref' = inputSupported s ref' := by
  simp only [inputSupported, endpointAt_updateEndpoint, updateEndpoint_cfg]
  by_cases h : ref = ref' <;> cases endpointAt s ref' <;> simp [h, hf]

/-- Dropping a byte keeps the kinds. -/
@[simp] theorem dropOldest_inputKind (ep : Endpoint) : ep.dropOldest.inputKind = ep.inputKind := rfl
/-- Receiving a byte keeps the kinds. -/
@[simp] theorem receive_inputKind (b : Byte) (ep : Endpoint) : (ep.receive b).inputKind = ep.inputKind := rfl
/-- An arrival keeps the kinds. -/
@[simp] theorem append_inputKind (b : Byte) (ep : Endpoint) : (ep.append b).inputKind = ep.inputKind := rfl

/-- Everything an arrival can do (rules R32, R67): it answers a next state exactly on an open endpoint, and then one byte joined that endpoint's pending input. -/
theorem arriveAt_eq_next {ref : Nat} {b : Byte} {s t : State} :
    arriveAt ref b s = .next t ↔
      ∃ ep, endpointAt s ref = some ep ∧ ep.isOpen = true ∧ t = updateEndpoint ref (Endpoint.append b) s := by
  unfold arriveAt
  cases endpointAt s ref with
  | none => simp
  | some ep =>
    cases h : ep.isOpen
    · simp [h]
    · simpa [h] using ⟨Eq.symm, Eq.symm⟩

/-- Everything the loss of a byte can do (rule R131). -/
theorem drainAt_eq_next {ref : Nat} {s t : State} :
    drainAt ref s = .next t ↔
      ∃ ep, endpointAt s ref = some ep ∧ isHostStream ep.inputKind = true ∧ ep.pending ≠ [] ∧
        t = updateEndpoint ref Endpoint.dropOldest s := by
  unfold drainAt
  cases endpointAt s ref with
  | none => simp
  | some ep =>
    cases h : isHostStream ep.inputKind <;> cases hp : ep.pending <;> simp [h, hp]
    exact ⟨Eq.symm, Eq.symm⟩

/-- Everything a rebind can do (rules R89, R93): the reference is bound, or the host sees the error and nothing else changed. -/
theorem rebindInput_cases (ref : Nat) (s : State) :
    (inputSupported s ref = true ∧ rebindInput ref s = { s with inEP := ref }) ∨
    (inputSupported s ref = false ∧ rebindInput ref s = raiseConfigurationError ref s) := by
  unfold rebindInput
  cases inputSupported s ref <;> simp

/-- Everything `create` can do when it answers a next state (rules R88, R99). -/
theorem execCreate_eq_next {s t : State} :
    execCreate s = .next t ↔
      s.created = false ∧
      ((inputSupported s standardInput = true ∧ t = registerBlock (initialRecord (releaseOutputs s))) ∨
       (inputSupported s standardInput = false ∧ t = raiseConfigurationError standardInput (releaseOutputs s))) := by
  unfold execCreate
  cases s.created <;> cases inputSupported s standardInput <;> simp
  all_goals exact ⟨Eq.symm, Eq.symm⟩

end Sys2Proof.Machine
end

