-- ==== Sys2Proof/Laws/Step.lean ====
section
/-! SUPPORT. What an operation and a step can do when they answer a next state, said once: one inversion lemma per operation and one for `step`. -/

namespace Sys2Proof.Machine

theorem execReadStatus_eq_next {s t : State} :
    execReadStatus s = .next t ↔ s.created = true ∧ t = answer (statusRead s) (releaseOutputs s) :=
  requireCreated_next_eq_next

theorem execWriteStatus_eq_next {v : Byte} {s t : State} :
    execWriteStatus v s = .next t ↔
      s.created = true ∧ t = { releaseOutputs s with status := statusWritten s.cfg s.status v } :=
  requireCreated_next_eq_next

theorem execReadControl_eq_next {s t : State} :
    execReadControl s = .next t ↔ s.created = true ∧ t = answer s.control (releaseOutputs s) :=
  requireCreated_next_eq_next

theorem execWriteControl_eq_next {v : Byte} {s t : State} :
    execWriteControl v s = .next t ↔ s.created = true ∧ t = { releaseOutputs s with control := v } :=
  requireCreated_next_eq_next

theorem execReadData_eq_next {s t : State} :
    execReadData s = .next t ↔
      s.created = true ∧
      t = if rxcSet s then consumeByte (releaseOutputs s) else answer 0x00#8 (releaseOutputs s) :=
  requireCreated_next_eq_next

theorem execWriteData_eq_next {v : Byte} {s t : State} :
    execWriteData v s = .next t ↔
      s.created = true ∧
      t = { txWrite v (releaseOutputs s) with status := statusAfterTransmit s.cfg s.status } :=
  requireCreated_next_eq_next

theorem execPoll_eq_next {s t : State} :
    execPoll s = .next t ↔
      s.created = true ∧
      t = if rxAvail s then detectInput (afterRxAvail (releaseOutputs s)) else afterRxAvail (releaseOutputs s) :=
  requireCreated_next_eq_next

theorem execSetInputEndpoint_eq_next {e : BitVec 8} {s t : State} :
    execSetInputEndpoint e s = .next t ↔
      s.created = true ∧ e.toNat < s.endpoints.length ∧ t = rebindInput e.toNat (releaseOutputs s) :=
  requireCreated_ite_eq_next

theorem execSetOutputEndpoint_eq_next {e : BitVec 8} {s t : State} :
    execSetOutputEndpoint e s = .next t ↔
      s.created = true ∧ e.toNat < s.endpoints.length ∧ t = rebindOutput e.toNat (releaseOutputs s) :=
  requireCreated_ite_eq_next

/-- Everything a performed resolution can do. -/
theorem perform_eq_next {r : Resolution} {s t : State} (h : perform r s = .next t) :
    (∃ i, r = .operation i ∧ exec i s = .next t) ∨
    (∃ bytes, r = .bindInput bytes ∧ bindFreshInput bytes (releaseOutputs s) = .next t) ∨
    (∃ ref b, r = .arrival ref b ∧ arriveAt ref b (releaseOutputs s) = .next t) ∨
    (∃ ref, r = .loss ref ∧ drainAt ref (releaseOutputs s) = .next t) ∨
    (r = .notThisBlock ∧ t = releaseOutputs s) := by
  cases r <;> simp_all [perform]

/-- Everything a step can do when it answers a next state: nothing was left to do, or the oldest stimulus was performed. -/
theorem step_eq_next {s t : State} (h : step s = .next t) :
    (s.stimuli = [] ∧ t = releaseOutputs s) ∨
    (∃ stim rest, s.stimuli = stim :: rest ∧ perform (resolve s stim) { s with stimuli := rest } = .next t) := by
  unfold step at h
  cases hs : s.stimuli with
  | nil => simp_all
  | cons stim rest => exact .inr ⟨stim, rest, rfl, by simpa [hs] using h⟩

/-- The three addresses of the map are different, so each is found under its own register (rules R38, R39). -/
theorem handlerAt_addressOf {s : State} (hI : s.Inv) (hc : s.created = true) (r : Register) :
    handlerAt s (addressOf s.cfg r) = some r := by
  have hm : s.handlers = addressMap s.cfg := (hI.2.2.1 hc).1
  obtain ⟨-, -, -, -, d1, d2, d3, -⟩ := hI.1
  have e1 : (s.cfg.addrControl == s.cfg.addrStatus) = false := by simpa using d1.symm
  have e2 : (s.cfg.addrData == s.cfg.addrStatus) = false := by simpa using d2.symm
  have e3 : (s.cfg.addrData == s.cfg.addrControl) = false := by simpa using d3.symm
  cases r <;> simp [handlerAt, hm, addressMap, addressOf, List.lookup, e1, e2, e3]

/-- Every register address is an address (rule R37). -/
theorem addressOf_in_space {c : Config} (h : c.WF) (r : Register) : inAddressSpace c (addressOf c r) 1 = true := by
  obtain ⟨-, h1, h2, h3, -⟩ := h
  cases r <;> simpa [inAddressSpace, addressOf, Nat.succ_le_iff] using by assumption

/-- A byte load from a register's address stands for that register's read (rule R39). -/
theorem resolve_registerLoad {s : State} (hI : s.Inv) (hc : s.created = true) (r : Register) :
    resolve s (.event (.busRead (addressOf s.cfg r) 1)) = .operation (readOf r) := by
  simp [resolve, resolveEvent, resolveBusRead, resolveAccess, addressOf_in_space hI.1, handlerAt_addressOf hI hc]

/-- A byte store to a register's address stands for that register's write (rule R39). -/
theorem resolve_registerStore {s : State} (hI : s.Inv) (hc : s.created = true) (r : Register) (v : Byte) :
    resolve s (.event (.busWrite (addressOf s.cfg r) [v])) = .operation (writeOf v r) := by
  simp [resolve, resolveEvent, resolveBusWrite, resolveAccess, addressOf_in_space hI.1, handlerAt_addressOf hI hc]

/-- `rx_ok` says whether a read would get a byte, and then `rx_data` is that byte (rule R68). -/
theorem rxDataPort_eq_true {s : State} {b : Byte} : rxDataPort s = (b, true) ↔ rxAnswer s = some b := by
  unfold rxDataPort
  cases rxAnswer s <;> simp

end Sys2Proof.Machine
end

