-- ==== Sys2Proof/Laws/Exec.lean ====
section
/-! SUPPORT. What every operation does to the flags and to the block's existence, said once for all operations, and the equality of states field by field. -/

namespace Sys2Proof.Machine

/-- Two states with the same fields are the same state. -/
theorem state_ext {s t : State} (h0 : t.cfg = s.cfg) (h1 : t.status = s.status) (h2 : t.control = s.control) (h3 : t.inEP = s.inEP)
  (h4 : t.outEP = s.outEP) (h5 : t.created = s.created) (h6 : t.endpoints = s.endpoints) (h7 : t.txlog = s.txlog) (h8 : t.irqlog = s.irqlog)
  (h9 : t.handlers = s.handlers) (h10 : t.pollEnrolled = s.pollEnrolled) (h11 : t.stimuli = s.stimuli) (h12 : t.out = s.out) (h13 : t.draws = s.draws) : t = s := by
  cases s; cases t; simp_all

/-- No operation of the created block ends its existence or changes the parameters (rules R7, R34). -/
theorem exec_created {i : Instr} {s t : State} (hc : s.created = true) (h : exec i s = .next t) : t.created = true ∧ t.cfg = s.cfg := by
  cases i <;> simp only [exec] at h
  · obtain ⟨-, rfl⟩ := execReadStatus_eq_next.1 h; exact ⟨hc, rfl⟩
  · obtain ⟨-, rfl⟩ := execWriteStatus_eq_next.1 h; exact ⟨hc, rfl⟩
  · obtain ⟨-, rfl⟩ := execReadControl_eq_next.1 h; exact ⟨hc, rfl⟩
  · obtain ⟨-, rfl⟩ := execWriteControl_eq_next.1 h; exact ⟨hc, rfl⟩
  · obtain ⟨-, rfl⟩ := execReadData_eq_next.1 h; split <;> simp [hc]
  · obtain ⟨-, rfl⟩ := execWriteData_eq_next.1 h; simp [hc]
  · obtain ⟨-, rfl⟩ := execPoll_eq_next.1 h; split <;> simp [hc]
  · have := (execCreate_eq_next.1 h).1; simp_all
  · obtain ⟨-, -, rfl⟩ := execSetInputEndpoint_eq_next.1 h; simp [hc]
  · obtain ⟨-, -, rfl⟩ := execSetOutputEndpoint_eq_next.1 h; simp [hc]
  · obtain ⟨ep, -, -, rfl⟩ := arriveAt_eq_next.1 h; simp [hc]

/-- RXC after an operation of the created block (rule R23). -/
theorem exec_rxc {i : Instr} {s t : State} (hwf : s.cfg.WF) (hc : s.created = true) (h : exec i s = .next t) :
    rxcSet t = (if i = .readData then false else if i = .poll then (rxcSet s || rxAvail s) else rxcSet s) := by
  cases i <;> simp only [exec] at h <;> simp only [reduceCtorEq, if_false, if_true]
  · obtain ⟨-, rfl⟩ := execReadStatus_eq_next.1 h; rfl
  · obtain ⟨-, rfl⟩ := execWriteStatus_eq_next.1 h; exact isset_statusWritten_rxc _ (txc_ne_rxc hwf) _ _
  · obtain ⟨-, rfl⟩ := execReadControl_eq_next.1 h; rfl
  · obtain ⟨-, rfl⟩ := execWriteControl_eq_next.1 h; rfl
  · obtain ⟨-, rfl⟩ := execReadData_eq_next.1 h
    split
    · simp [rxcSet, rxcMask, isset_clearBits_self]
    · rename_i h; simpa [rxcSet] using h
  · obtain ⟨-, rfl⟩ := execWriteData_eq_next.1 h
    simp only [rxcSet, rxcMask, txWrite_cfg, releaseOutputs_cfg]
    exact isset_statusAfterTransmit_other _ (txc_ne_rxc hwf) _
  · obtain ⟨-, rfl⟩ := execPoll_eq_next.1 h
    cases hA : rxAvail s <;> simp [rxcSet, rxcMask, isset_setBits_self]
  · have := (execCreate_eq_next.1 h).1; simp_all
  · obtain ⟨-, -, rfl⟩ := execSetInputEndpoint_eq_next.1 h; simp [rxcSet]
  · obtain ⟨-, -, rfl⟩ := execSetOutputEndpoint_eq_next.1 h; simp [rxcSet]
  · obtain ⟨ep, -, -, rfl⟩ := arriveAt_eq_next.1 h; simp [rxcSet]

/-- TXC after an operation of the created block (rule R22). -/
theorem exec_txc {i : Instr} {s t : State} (hwf : s.cfg.WF) (hc : s.created = true) (h : exec i s = .next t) :
    txcSet t = (match i with | .writeStatus v => txcSet s && !isset v (txcMask s.cfg) | .writeData _ => s.cfg.txcSetOnWrite || txcSet s | _ => txcSet s) := by
  cases i <;> simp only [exec] at h <;> simp only
  · obtain ⟨-, rfl⟩ := execReadStatus_eq_next.1 h; rfl
  · obtain ⟨-, rfl⟩ := execWriteStatus_eq_next.1 h; exact isset_statusWritten_txc _ _ _
  · obtain ⟨-, rfl⟩ := execReadControl_eq_next.1 h; rfl
  · obtain ⟨-, rfl⟩ := execWriteControl_eq_next.1 h; rfl
  · obtain ⟨-, rfl⟩ := execReadData_eq_next.1 h
    split
    · simp [txcSet, rxcMask, txcMask, isset_clearBits_other _ (txc_ne_rxc hwf).symm]
    · rfl
  · obtain ⟨-, rfl⟩ := execWriteData_eq_next.1 h
    simp only [txcSet, txWrite_cfg, releaseOutputs_cfg]
    exact isset_statusAfterTransmit_txc _ _
  · obtain ⟨-, rfl⟩ := execPoll_eq_next.1 h
    cases hA : rxAvail s <;> simp [txcSet, txcMask, rxcMask, isset_setBits_other _ (txc_ne_rxc hwf).symm]
  · have := (execCreate_eq_next.1 h).1; simp_all
  · obtain ⟨-, -, rfl⟩ := execSetInputEndpoint_eq_next.1 h; simp [txcSet]
  · obtain ⟨-, -, rfl⟩ := execSetOutputEndpoint_eq_next.1 h; simp [txcSet]
  · obtain ⟨ep, -, -, rfl⟩ := arriveAt_eq_next.1 h; simp [txcSet]

/-- A sequence of operations that ends in a state performed its first operation and then the rest. -/
theorem execAll_cons {i : Instr} {ops : List Instr} {s u : State} (h : execAll (i :: ops) s = some u) : ∃ t, exec i s = .next t ∧ execAll ops t = some u := by
  unfold execAll at h
  split at h
  · exact ⟨_, by assumption, h⟩
  · simp at h
  · simp at h

end Sys2Proof.Machine
end

