-- ==== Sys2Proof/Laws/PerInstr.lean ====
section
/-! SUPPORT. Statements made per operation. `EncodingFitsRow`: the word of an operation has the fixed bits of its row of the opcode map (rule R63), whatever its operand. -/

namespace Sys2Proof.Laws.EncodingFitsRow

/-- The word of `i` has the fixed bits of its own row (rule R63). -/
def Statement (i : Instr) : Prop := (opcodeRow i).fits (encode i) = true

theorem readStatus : Statement .readStatus := by unfold Statement; decide
theorem writeStatus (v : Byte) : Statement (.writeStatus v) := by
  unfold Statement; revert v; decide
theorem readControl : Statement .readControl := by unfold Statement; decide
theorem writeControl (v : Byte) : Statement (.writeControl v) := by
  unfold Statement; revert v; decide
theorem readData : Statement .readData := by unfold Statement; decide
theorem writeData (v : Byte) : Statement (.writeData v) := by
  unfold Statement; revert v; decide
theorem poll : Statement .poll := by unfold Statement; decide
theorem create : Statement .create := by unfold Statement; decide
theorem setInputEndpoint (e : BitVec 8) : Statement (.setInputEndpoint e) := by
  unfold Statement; revert e; decide
theorem setOutputEndpoint (e : BitVec 8) : Statement (.setOutputEndpoint e) := by
  unfold Statement; revert e; decide
theorem rxArrive (b : Byte) : Statement (.rxArrive b) := by
  unfold Statement; revert b; decide

end Sys2Proof.Laws.EncodingFitsRow
end

