-- ==== Sys2Proof/Tests/Slice0.lean ====
section
/-! SUPPORT. Tests: the well-formedness smoke tests, the decoder on words written out from the tables of rules R62 and R63, single steps from the vectors of spec/95_test_vectors.md, and for every obligation with hypotheses a concrete case that meets them all. -/

namespace Sys2Proof.Tests

open Sys2Proof Sys2Proof.Machine

/-! ### Helpers -/

/-- The endpoint table of the small programs of 95_test_vectors.md: standard streams, the input source, an output buffer, an empty closed source. -/
def table (pending : List Byte) : List Endpoint :=
  [Endpoint.stdin, Endpoint.stdout, finiteSource pending, Endpoint.stdout, finiteSource []]

/-- A created block under P0 bound to the input source and the output buffer. -/
def bench (status control : Byte) (pending : List Byte) : State :=
  { State.reset with status := status, control := control, inEP := 2, outEP := 3, endpoints := table pending }

/-- The second instantiation of section 2.10. -/
def secondConfig : Config :=
  { Config.p0 with dreBit := 0, txcBit := 1, rxcBit := 2, rxcieBit := 0 }

/-- The same bench under another choice of parameters. -/
def benchWith (c : Config) (status control : Byte) (pending : List Byte) : State :=
  { bench status control pending with cfg := c, handlers := addressMap c }

/-- A file whose reads and availability are draws, and a stream with no availability check. -/
def stream (kind : InputKind) (pending : List Byte) : Endpoint :=
  { inputKind := kind, outputKind := .closed, pending := pending, isOpen := true, received := [] }

/-- Before `create`, with the table of the small programs. -/
def unborn : State := State.launch Config.p0 (table [0x41#8])

/-- A look at the state an outcome answers; nothing if it answers none. -/
def seen {α : Type} (r : Host.Outcome State Fault Refusal) (f : State → α) : Option α :=
  match r with
  | .next t => some (f t)
  | .fault _ => none
  | .refused _ => none

/-- The name of the fault an outcome is. -/
def faultOf (r : Host.Outcome State Fault Refusal) : Option Fault :=
  match r with
  | .next _ => none
  | .fault f => some f
  | .refused _ => none

/-- The name of the refusal an outcome is. -/
def refusalOf (r : Host.Outcome State Fault Refusal) : Option Refusal :=
  match r with
  | .next _ => none
  | .fault _ => none
  | .refused f => some f

/-! ### Well-formedness (rule R63) -/

theorem test_ill_formed_input_index : ¬ WellFormed 2 (.setInputEndpoint 2#8) := by decide
theorem test_ill_formed_output_index : ¬ WellFormed 2 (.setOutputEndpoint 0xFF#8) := by decide
theorem test_well_formed_last_index : WellFormed 2 (.setInputEndpoint 1#8) := by decide
theorem test_every_index_of_a_full_table : WellFormed fullTable (.setOutputEndpoint 0xFF#8) := by decide

/-! ### Decoding: words written out from rule R62's fields kind, sel, data (section 2.9) -/

theorem test_decode_readStatus : decode 5 0b00_00_00000000#12 = .ok .readStatus := by decide
theorem test_decode_readControl : decode 5 0b00_01_00000000#12 = .ok .readControl := by decide
theorem test_decode_readData : decode 5 0b00_10_00000000#12 = .ok .readData := by decide
theorem test_decode_writeStatus : decode 5 0b01_00_11111111#12 = .ok (.writeStatus 0xFF#8) := by decide
theorem test_decode_writeControl : decode 5 0b01_01_10000000#12 = .ok (.writeControl 0x80#8) := by decide
theorem test_decode_writeData : decode 5 0b01_10_01000001#12 = .ok (.writeData 0x41#8) := by decide
theorem test_decode_poll : decode 5 0b10_00_00000000#12 = .ok .poll := by decide
theorem test_decode_create : decode 5 0b11_00_00000000#12 = .ok .create := by decide
theorem test_decode_setInputEndpoint : decode 5 0b11_01_00000010#12 = .ok (.setInputEndpoint 2#8) := by decide
theorem test_decode_setOutputEndpoint : decode 5 0b11_10_00000001#12 = .ok (.setOutputEndpoint 1#8) := by decide
theorem test_decode_rxArrive : decode 5 0b11_11_01010101#12 = .ok (.rxArrive 0x55#8) := by decide

theorem test_reserved_read_with_data : decode 5 0x001#12 = .error .readWithData ∧ decode 5 0x1FF#12 = .error .readWithData := by decide
theorem test_reserved_select : decode 5 0x300#12 = .error .foreignRegister ∧ decode 5 0x7AB#12 = .error .foreignRegister := by decide
theorem test_reserved_tick : decode 5 0x801#12 = .error .tickWithOperand ∧ decode 5 0x900#12 = .error .tickWithOperand ∧
    decode 5 0xBFF#12 = .error .tickWithOperand := by decide
theorem test_reserved_create : decode 5 0xC01#12 = .error .createWithData := by decide
theorem test_reserved_index : decode 5 0xD05#12 = .error .beyondTable ∧ decode 2 0xE02#12 = .error .beyondTable := by decide

theorem test_table_word : decodeTableWord 16 0x641 = some (.writeData 0x41#8) ∧ decodeTableWord 16 0x300 = none ∧
    decodeTableWord 16 0x1000 = none := by decide
theorem test_fetch_word : step (State.reset.withFetchWord 16 0x641) = exec (.writeData 0x41#8) State.reset := rfl

/-! ### Single steps (sections 2.1 to 2.8, 2.10) -/

theorem test_readStatus_flags : seen (exec .readStatus (bench 0xC0#8 0x00#8 [])) (fun t => (t.out.rdata, t.status)) =
    some (some 0xE0#8, 0xC0#8) := by decide
theorem test_readStatus_reserved_bits : seen (exec .readStatus (bench 0x05#8 0x00#8 [])) (fun t => t.out.rdata) =
    some (some 0x25#8) := by decide
theorem test_writeStatus_all_ones : seen (exec (.writeStatus 0xFF#8) (bench 0xC0#8 0x00#8 [])) (fun t => t.status) =
    some 0x80#8 := by decide
/-- Section 2.2, the line on `STATUS_STORE_OTHER = true`. -/
theorem test_writeStatus_stored : seen (exec (.writeStatus 0x40#8)
    (benchWith { Config.p0 with statusStoreOther := true } 0xC5#8 0x00#8 [])) (fun t => t.status) = some 0x80#8 := by decide
theorem test_readControl_verbatim : seen (exec .readControl (bench 0x80#8 0x7F#8 [])) (fun t => t.out.rdata) =
    some (some 0x7F#8) := by decide
theorem test_writeControl_late_enable : seen (exec (.writeControl 0x80#8) (bench 0x80#8 0x00#8 [0x43#8]))
    (fun t => (t.control, t.status, t.irqlog)) = some (0x80#8, 0x80#8, []) := by decide
theorem test_readData_one_byte : seen (exec .readData (bench 0xC0#8 0x00#8 [0x41#8, 0x42#8]))
    (fun t => (t.out.rdata, t.status, pendingInput t)) = some (some 0x41#8, 0x40#8, [0x42#8]) := by decide
theorem test_readData_undetected : seen (exec .readData (bench 0x40#8 0x00#8 [0x0D#8]))
    (fun t => (t.out.rdata, t.status, pendingInput t)) = some (some 0x00#8, 0x40#8, [0x0D#8]) := by decide
theorem test_writeData_forwards : seen (exec (.writeData 0xFF#8) (bench 0x80#8 0x00#8 []))
    (fun t => (t.status, t.txlog, (endpointAt t 3).map Endpoint.received)) =
    some (0xC0#8, [(3, 0xFF#8)], some [0xFF#8]) := by decide
/-- Section 2.5, a closed output endpoint: nothing reaches it, the byte is logged, TXC is set. -/
theorem test_writeData_closed : seen (exec (.writeData 0x48#8) { bench 0x00#8 0x00#8 [] with outEP := 4 })
    (fun t => (t.status, t.txlog, (endpointAt t 4).map Endpoint.received)) =
    some (0x40#8, [(4, 0x48#8)], some []) := by decide
theorem test_poll_edge : seen (exec .poll (bench 0x40#8 0x80#8 [0x01#8]))
    (fun t => (t.status, t.irqlog, t.out.irqReq, pendingInput t)) = some (0xC0#8, [18], some 18, [0x01#8]) := by decide
/-- Section 2.10: under the second instantiation bit 7 of `control` is not RXCIE and bit 2 of `status` is RXC. -/
theorem test_poll_other_bits : seen (exec .poll (benchWith secondConfig 0x02#8 0x80#8 [0x5A#8]))
    (fun t => (t.status, t.irqlog)) = some (0x06#8, []) := by decide
theorem test_create_reset : seen (exec .create unborn) (fun t => (t.created, statusRead t, t.control, t.inEP, t.outEP)) =
    some (true, 0x20#8, 0x00#8, 0, 1) := by decide
theorem test_create_twice : refusalOf (exec .create State.reset) = some .secondCreate := by decide
theorem test_setInputEndpoint_keeps_detection : seen (exec (.setInputEndpoint 4#8) (bench 0x80#8 0x00#8 [0x41#8]))
    (fun t => (t.status, t.inEP, (endpointAt t 2).map Endpoint.pending)) = some (0x80#8, 4, some [0x41#8]) := by decide
theorem test_setInputEndpoint_unsupported : seen (exec (.setInputEndpoint 1#8) (bench 0x00#8 0x00#8 []))
    (fun t => (t.inEP, t.out.raised)) = some (2, some (.configurationError 1)) := by decide
theorem test_setOutputEndpoint_binds : seen (exec (.setOutputEndpoint 1#8) (bench 0x40#8 0x00#8 []))
    (fun t => (t.status, t.outEP)) = some (0x40#8, 1) := by decide
theorem test_rxArrive_open : seen (exec (.rxArrive 0x55#8) State.reset) pendingInput = some [0x55#8] := by decide
theorem test_rxArrive_closed : refusalOf (exec (.rxArrive 0x55#8) (bench 0x00#8 0x00#8 [])) = some (.endpointNotOpen 2) := by decide
theorem test_poll_before_create : faultOf (exec .poll unborn) = some (.preconditionViolation "poll") := by decide

/-! ### Witnesses: for every obligation with hypotheses, a case that meets them -/

/-- The bench meets the invariant with nothing detected, and with a byte detected and interrupts enabled. -/
theorem bench_inv : (bench 0x00#8 0x00#8 [0x41#8]).Inv := by
  refine ⟨?_, ?_, ?_, ?_, ?_, ?_, ?_⟩ <;> decide
theorem bench_detected_inv : (bench 0xC0#8 0x80#8 []).Inv := by
  refine ⟨?_, ?_, ?_, ?_, ?_, ?_, ?_⟩ <;> decide
theorem unborn_inv : unborn.Inv := by
  refine ⟨?_, ?_, ?_, ?_, ?_, ?_, ?_⟩ <;> decide
theorem second_inv : (benchWith secondConfig 0x02#8 0x80#8 [0x5A#8]).Inv := by
  refine ⟨?_, ?_, ?_, ?_, ?_, ?_, ?_⟩ <;> decide

/-- A state about to perform one event. -/
def about (s : State) (ev : Event) : State := { s with stimuli := [.event ev] }

theorem witness_EncodedOperationDecodesBack : WellFormed 5 (.setInputEndpoint 4#8) ∧ WellFormed 0 (.writeData 0xFF#8) := by decide
theorem witness_DecodedWordEncodesBack : decode 5 0xD04#12 = .ok (.setInputEndpoint 4#8) := by decide
theorem witness_OpcodeRowsDoNotOverlap : (opcodeRow (.writeData 0#8)).fits 0x6FF#12 = true ∧
    (opcodeRow (.writeData 0xFF#8)).fits 0x6FF#12 = true ∧ decode 5 0x6FF#12 = .ok (.writeData 0xFF#8) := by decide
theorem witness_OpcodeMap_operands : 0x4FF#12 = 0x400#12 ||| (0xFF#8).setWidth 12 ∧ 0x500#12 = 0x500#12 ||| (0x00#8).setWidth 12 ∧
    0x6FF#12 = 0x600#12 ||| (0xFF#8).setWidth 12 ∧ 0xFFF#12 = 0xF00#12 ||| (0xFF#8).setWidth 12 ∧
    (0xD04#12 = 0xD00#12 ||| (4#8).setWidth 12 ∧ (4#8).toNat < 5) ∧ (0xE04#12 = 0xE00#12 ||| (4#8).setWidth 12 ∧ (4#8).toNat < 5) := by
  decide
theorem witness_OpcodeMap_reserved : [0x001#12, 0x0FF#12, 0x101#12, 0x1FF#12, 0x201#12, 0x2FF#12, 0x300#12, 0x3FF#12, 0x700#12,
    0x7FF#12, 0x801#12, 0xBFF#12, 0xC01#12, 0xCFF#12, 0xD05#12, 0xDFF#12, 0xE05#12, 0xEFF#12].all
    (fun w => (decode 5 w).toOption.isNone) = true := by decide
theorem witness_OpcodeMap_step : (bench 0x00#8 0x00#8 []).endpoints.length = 5 ∧
    refusalOf (step { bench 0x00#8 0x00#8 [] with stimuli := [.word 0xD05#12] }) = some (.reservedWord .beyondTable) := by decide
theorem witness_StepPerformsDecodedWord : (State.reset.withFetchWord 16 0xE01).stimuli = [.word 0xE01#12] ∧
    decode State.reset.endpoints.length 0xE01#12 = .ok (.setOutputEndpoint 1#8) := by decide
theorem witness_StepWithoutStimulusChangesNothing : State.reset.stimuli = [] := by decide
theorem witness_ByteLoadPerformsRegisterRead (addr : Nat) :
    (about (bench 0xC0#8 0x80#8 []) (.busRead addr 1)).Inv ∧
    (about (bench 0xC0#8 0x80#8 []) (.busRead addr 1)).created = true ∧
    rxcSet (bench 0xC0#8 0x80#8 []) = true ∧ rxAnswer (bench 0xC0#8 0x80#8 []) = none :=
  ⟨bench_detected_inv, rfl, by decide, by decide⟩
theorem witness_ByteStorePerformsRegisterWrite (addr : Nat) (v : Byte) :
    (about (bench 0x00#8 0x00#8 [0x41#8]) (.busWrite addr [v])).Inv ∧
    (about (bench 0x00#8 0x00#8 [0x41#8]) (.busWrite addr [v])).created = true := ⟨bench_inv, rfl⟩
/-- The last two bytes of the space, just above `ADDR_CONTROL`, just below `ADDR_DATA`, and an access of no bytes. -/
theorem witness_AccessElsewhereIsNotThisBlock : (bench 0x00#8 0x00#8 []).cfg = Config.p0 ∧
    [(0xFFFE, 2), (0xC2, 4), (0xBF, 1), (0xC7, 1), (0xC0, 0)].all
      (fun a => decide (a.1 + a.2 ≤ 2 ^ Config.p0.addrWidth) && !coversRegister Config.p0 a.1 a.2) = true := by decide
/-- Two bytes ending at `ADDR_STATUS`, two covering `ADDR_CONTROL` only at their first, and two accesses over the end, one that covers registers and one that covers none. -/
theorem witness_WideAccessesAndFetchesAreRefused :
    (0xBF ≤ 0xC0 ∧ 0xC0 < 0xBF + 2 ∧ 0xBF + 2 ≤ 2 ^ Config.p0.addrWidth) ∧
    (0xC1 ≤ Config.p0.addrControl ∧ Config.p0.addrControl < 0xC1 + 2) ∧
    (2 ^ Config.p0.addrWidth < 0xC6 + 2 ^ 16) ∧
    (2 ^ Config.p0.addrWidth < 0xFFFF + 2 ∧ coversRegister Config.p0 0xFFFF 2 = false) := by decide
theorem witness_BeforeCreateBusAndTickReachNothing : (about unborn .tick).Inv ∧ (about unborn .tick).created = false ∧
    0xFFFF < 2 ^ unborn.cfg.addrWidth := ⟨unborn_inv, rfl, by decide⟩
theorem witness_TickPerformsPoll : (about (bench 0x00#8 0x00#8 [0x41#8]) .tick).Inv ∧
    (about (bench 0x00#8 0x00#8 [0x41#8]) .tick).created = true := ⟨bench_inv, rfl⟩

/-- A sample with no strobe active, about to be performed with `f` applied to it. -/
def sampled (f : Strobes → Strobes) : State :=
  { State.reset with stimuli := [.strobes (f { busAddr := 0xC6, busRd := false, busWr := false, busWdata := 0x41#8, tick := false, create := false, setIn := none, setOut := none })] }

/-- One strobe, none, and two of them; the bit of `create` is no bit of `tick`. -/
theorem witness_StrobesPerformAtMostOneOperation :
    (match (sampled fun p => { p with setOut := some 0#8 }).stimuli with
      | [.strobes p] => activeEvents p | _ => []) = [.setOut 0#8] ∧
    seen (step (sampled id)) State.out = some Outputs.idle ∧
    refusalOf (step (sampled fun p => { p with setIn := some 0#8, create := true })) = some .concurrentStrobes ∧
    refusalOf (step (sampled fun p => { p with create := true })) = some .secondCreate := by decide
theorem witness_EmulatedSoftwareReachesOnlyRegisterOperations :
    resolve (bench 0xC0#8 0x80#8 []) (.event (.busRead 0xC6 1)) = .operation .readData ∧
    seen (step (about (bench 0x00#8 0x00#8 []) (.busRead 0xC6 1))) rxcSet = some false ∧
    rxcSet (bench 0x00#8 0x00#8 []) = false := by decide
theorem witness_ReadStatusReturnsForcedStatus : (bench 0xC0#8 0x80#8 []).Inv ∧ (bench 0xC0#8 0x80#8 []).created = true ∧
    (bench 0xC0#8 0x80#8 []).cfg = Config.p0 ∧ Config.p0.statusStoreOther = false ∧ Config.p0.statusReset = 0x00#8 ∧
    (bench 0xC0#8 0x80#8 []).status = 0xC0#8 := ⟨bench_detected_inv, rfl, rfl, rfl, rfl, rfl⟩
theorem witness_WriteStatusClearsOnlyTransmitComplete : (bench 0xC0#8 0x80#8 []).cfg.WF ∧
    (bench 0xC0#8 0x80#8 []).created = true ∧ isset 0x40#8 (txcMask Config.p0) = txcSet (bench 0xC0#8 0x80#8 []) ∧
    (bench 0xC0#8 0x80#8 []).cfg.statusStoreOther = false := by decide
theorem witness_ReadControlReturnsStoredByte : State.reset.created = true ∧
    (∃ t, exec (.writeControl 0x98#8) State.reset = .next t) ∧
    (∃ t, exec .create unborn = .next t ∧ t.created = true) := ⟨rfl, ⟨_, rfl⟩, ⟨_, rfl, rfl⟩⟩
theorem witness_WriteControlStoresVerbatimWithoutRequest : (bench 0xC0#8 0x80#8 [0x41#8]).cfg.WF ∧
    (bench 0xC0#8 0x80#8 [0x41#8]).created = true ∧ rxcSet (bench 0xC0#8 0x80#8 [0x41#8]) = true ∧
    .readData ∉ [Instr.poll, .poll] ∧ (execAll [.poll, .poll] (bench 0xC0#8 0x80#8 [0x41#8])).isSome = true := by decide
theorem witness_ReadDataConsumesOneDetectedByte : (bench 0x80#8 0x00#8 [0x41#8]).cfg.WF ∧
    rxcSet (bench 0x80#8 0x00#8 [0x41#8]) = true ∧ rxcSet (bench 0x00#8 0x00#8 [0x41#8]) = false ∧
    (endpointAt (bench 0x80#8 0x00#8 [0x41#8]) 2).map Endpoint.inputKind = some .canonical ∧
    (execAll [.readData, .writeData 0x41#8] (bench 0x80#8 0x00#8 [0x41#8])).isSome = true := by decide
theorem witness_WriteDataForwardsItsByteOnce : (bench 0x00#8 0x00#8 []).cfg.WF ∧ (bench 0x00#8 0x00#8 []).created = true ∧
    (endpointAt (bench 0x00#8 0x00#8 []) 3).map Endpoint.outputKind = some .canonical ∧
    (endpointAt (bench 0x00#8 0x00#8 []) 4).map Endpoint.outputKind = some .closed ∧
    txcSet (benchWith { Config.p0 with txcSetOnWrite := false } 0x00#8 0x00#8 []) = false ∧
    (execAll [.writeData 0x48#8] (benchWith { Config.p0 with txcSetOnWrite := false } 0x00#8 0x00#8 [])).isSome = true := by decide
theorem witness_PollDetectsInputAndRequestsOnce : unborn.created = false ∧
    (rxAvail (bench 0x00#8 0x80#8 [0x42#8]) = true ∧ rxcSet (bench 0x00#8 0x80#8 [0x42#8]) = false ∧
      rxcieSet (bench 0x00#8 0x80#8 [0x42#8]) = true) ∧
    rxAvail (bench 0x80#8 0x80#8 []) = false ∧ rxcSet (bench 0x80#8 0x80#8 []) = true ∧
    (isset 0x1F#8 (rxcMask Config.p0) = rxcSet (bench 0x00#8 0x80#8 [0x42#8]) ∧
      isset 0xFF#8 (rxcieMask Config.p0) = rxcieSet (bench 0x00#8 0x80#8 [0x42#8])) := by decide
theorem witness_RequestExactlyOnEnabledRisingEdge : (∃ t, exec .poll (bench 0x00#8 0x80#8 [0x42#8]) = .next t) ∧
    (∃ t, exec .create unborn = .next t) ∧ unborn.created = false := ⟨⟨_, rfl⟩, ⟨_, rfl⟩, rfl⟩
theorem witness_RepeatedPollChangesNothing : (∃ t, exec .poll (bench 0x00#8 0x80#8 [0x42#8]) = .next t) ∧
    rxAvail (bench 0x00#8 0x80#8 [0x42#8]) = true ∧ boundToHostStream (bench 0x00#8 0x80#8 []) = false ∧
    (bench 0x00#8 0x80#8 [0x42#8]).cfg.WF := ⟨⟨_, rfl⟩, rfl, rfl, by decide⟩
theorem witness_CreateGivesResetState : unborn.created = false ∧ inputSupported unborn standardInput = true ∧
    NothingBeforeCreate unborn ∧ unborn.cfg.WF ∧ unborn.cfg = Config.p0 ∧ State.reset.created = true := by decide
theorem witness_SetInputEndpointRebindsOnly : (bench 0x80#8 0x00#8 [0x41#8]).cfg.WF ∧
    (endpointAt (bench 0x80#8 0x00#8 [0x41#8]) (1#8).toNat).map (fun ep => supportedInputKind Config.p0 ep.inputKind) = some false ∧
    (endpointAt (bench 0x80#8 0x00#8 [0x41#8]) (2#8).toNat).map (fun ep => (ep.inputKind, ep.pending)) =
      some (.canonical, [0x41#8]) ∧
    (endpointAt (bench 0x80#8 0x00#8 [0x41#8]) (4#8).toNat).map (fun ep => (ep.inputKind, ep.pending)) = some (.canonical, []) ∧
    rxcSet (bench 0x80#8 0x00#8 [0x41#8]) = true ∧ (2#8).toNat = (bench 0x80#8 0x00#8 [0x41#8]).inEP := by decide
theorem witness_SetOutputEndpointRebindsOnly : (bench 0x40#8 0x00#8 []).created = true ∧
    (endpointAt (bench 0x40#8 0x00#8 []) (1#8).toNat).map Endpoint.outputKind = some .canonical := by decide

/-- A launch whose standard input is a stream without an availability check. -/
def unsupportedLaunch : State := State.launch Config.p0 [stream .other [], Endpoint.stdout]

theorem witness_ConfigurationErrorLeavesStateUnchanged :
    (∃ t, exec .create unsupportedLaunch = .next t ∧ t.out.raised ≠ none) ∧
    (∃ t, exec (.setInputEndpoint 1#8) State.reset = .next t ∧ t.out.raised ≠ none) ∧
    unsupportedLaunch.created = false ∧ inputSupported unsupportedLaunch standardInput = false :=
  ⟨⟨_, rfl, by decide⟩, ⟨_, rfl, by decide⟩, rfl, rfl⟩
theorem witness_OperationsBeforeCreateFault : unborn.created = false ∧ Instr.setOutputEndpoint 1#8 ≠ .create ∧
    ∀ b, Instr.setOutputEndpoint 1#8 ≠ .rxArrive b := ⟨rfl, by decide, fun _ h => by cases h⟩
theorem witness_BusOperationsNeverFail : State.reset.created = true ∧ (Instr.writeData 0x00#8).agent = .busMaster := by decide
theorem witness_ArrivalJoinsBoundInput : endpointAt State.reset State.reset.inEP = some Endpoint.stdin ∧
    Endpoint.stdin.isOpen = true ∧
    endpointAt (bench 0x00#8 0x00#8 []) 2 = some (finiteSource []) ∧ (finiteSource []).isOpen = false := by decide

/-- The reset machine with its standard input a file holding one byte. -/
def fileBench : State := { State.reset with endpoints := [stream .file [0x41#8], Endpoint.stdout] }

theorem witness_EnvironmentTouchesOnlyPendingBytes : endpointAt fileBench 0 = some (stream .file [0x41#8]) ∧
    (stream .file [0x41#8]).isOpen = true ∧ isHostStream (stream .file [0x41#8]).inputKind = true ∧
    (about fileBench (.drain 0)).stimuli = [.event (.drain 0)] := by decide
/-- The refusals: an arrival at a closed endpoint and beyond the table, a loss at a canonical endpoint and at an empty stream. -/
theorem witness_EnvironmentTouches_refusals :
    ((endpointAt (bench 0x00#8 0x00#8 [0x41#8]) 2).map Endpoint.isOpen = some false ∧ endpointAt State.reset 2 = none) ∧
    ((endpointAt (bench 0x00#8 0x00#8 [0x41#8]) 2).map (fun ep => isHostStream ep.inputKind) = some false ∧
      (stream .pipe []).pending = [] ∧ isHostStream (stream .pipe []).inputKind = true) := by decide
theorem witness_BindInputGivesFreshSource : (about State.reset (.bindInput [0x41#8])).created = true ∧
    (about State.reset (.bindInput [0x41#8])).stimuli = [.event (.bindInput [0x41#8])] := by decide
theorem witness_OnlyNamedOperationsChangeEachPart : (bench 0x00#8 0x80#8 [0x42#8]).cfg.WF ∧
    seen (exec .poll (bench 0x00#8 0x80#8 [0x42#8])) rxcSet = some true ∧
    seen (exec .readData (bench 0xC0#8 0x00#8 [0x42#8])) rxcSet = some false ∧
    seen (exec (.writeStatus 0x40#8) (bench 0xC0#8 0x00#8 [])) txcSet = some false ∧
    seen (exec (.setInputEndpoint 4#8) (bench 0x00#8 0x00#8 [])) State.inEP = some 4 ∧
    seen (exec (.setOutputEndpoint 1#8) (bench 0x00#8 0x00#8 [])) State.outEP = some 1 := by decide
theorem witness_WritesAreIdempotentExceptData : State.reset.cfg.WF ∧ State.reset.created = true := by decide
theorem witness_ReservedControlBitsHaveNoEffect : Instr.poll ≠ .readControl ∧
    isset 0x7F#8 (rxcieMask State.reset.cfg) = rxcieSet State.reset ∧ (∃ t, exec .poll State.reset = .next t) ∧
    faultOf (exec .poll unborn) = some (.preconditionViolation "poll") ∧
    refusalOf (exec .create State.reset) = some .secondCreate := ⟨by decide, by decide, ⟨_, rfl⟩, by decide, by decide⟩
theorem witness_OnlyReceiveCompleteOfStatusIsRead : State.reset.cfg.WF ∧
    isset 0x7F#8 (rxcMask State.reset.cfg) = rxcSet State.reset ∧
    (0x20#8 ||| dreMask State.reset.cfg = State.reset.status ||| dreMask State.reset.cfg ∧
      isset 0x20#8 (rxcMask State.reset.cfg) = rxcSet State.reset) ∧
    (∃ t, exec .readStatus State.reset = .next t) := ⟨by decide, by decide, by decide, ⟨_, rfl⟩⟩
theorem witness_CreatedIsNeverCleared : (∃ t, step (about State.reset .tick) = .next t) ∧
    (about State.reset .tick).created = true := ⟨⟨_, rfl⟩, rfl⟩
theorem witness_NoStepTakesARequestBack :
    seen (step (about { bench 0x00#8 0x80#8 [0x42#8] with irqlog := [18] } .tick)) State.irqlog = some [18, 18] := by decide
theorem witness_LaunchSatisfiesInvariant : Config.p0.WF ∧ secondConfig.WF ∧
    standardOutput < [Endpoint.stdin, Endpoint.stdout].length := by decide
theorem witness_EveryStepKeepsInvariant : (about (bench 0x00#8 0x00#8 [0x41#8]) .tick).Inv ∧
    (∃ t, step (about (bench 0x00#8 0x00#8 [0x41#8]) .tick) = .next t) ∧
    (benchWith secondConfig 0x02#8 0x80#8 [0x5A#8]).Inv := ⟨bench_inv, ⟨_, rfl⟩, second_inv⟩
theorem witness_TransmittedBytesArriveInOrder : (bench 0x00#8 0x00#8 []).created = true ∧
    endpointAt (bench 0x00#8 0x00#8 []) 3 = some Endpoint.stdout ∧ Endpoint.stdout.outputKind = .canonical ∧
    (∀ i ∈ [Instr.writeData 0x48#8, .writeData 0x00#8], bindsOutput i = false) ∧
    (execAll [.writeData 0x48#8, .writeData 0x00#8] (bench 0x00#8 0x00#8 [])).isSome = true := by decide
theorem witness_NoInputByteIsLostOrDuplicated : (∀ i ∈ [Instr.rxArrive 0x55#8, .poll, .readData], bindsInput i = false) ∧
    (execAll [.rxArrive 0x55#8, .poll, .readData] State.reset).isSome = true := by decide
theorem witness_RoundsDeliverPendingBytesInOrder : (bench 0x00#8 0x80#8 [0x41#8, 0x42#8]).cfg.WF ∧
    rxcSet (bench 0x00#8 0x80#8 [0x41#8, 0x42#8]) = false ∧
    endpointAt (bench 0x00#8 0x80#8 [0x41#8, 0x42#8]) 2 = some (finiteSource [0x41#8, 0x42#8]) ∧
    (finiteSource [0x41#8, 0x42#8]).inputKind = .canonical ∧ (finiteSource [0x41#8, 0x42#8]).pending = [0x41#8] ++ [0x42#8] := by decide
theorem witness_ExhaustedSourceStaysSilent : (bench 0x00#8 0x80#8 []).created = true ∧
    endpointAt (bench 0x00#8 0x80#8 []) 2 = some (finiteSource []) ∧ (finiteSource []).pending = [] ∧
    (finiteSource []).isOpen = false ∧ (∀ i ∈ [Instr.poll, .readData, .poll], bindsInput i = false) ∧
    (execAll [.poll, .readData, .poll] (bench 0x00#8 0x80#8 [])).isSome = true := by decide
theorem witness_RequestsAreBoundedByReads : (bench 0x00#8 0x80#8 [0x42#8]).cfg.WF ∧
    (execAll [.poll, .readData, .poll] (bench 0x00#8 0x80#8 [0x42#8])).isSome = true := by decide

theorem witness_EndpointIndexBeyondTableIsRefused : State.reset.created = true ∧
    State.reset.endpoints.length ≤ (2#8).toNat ∧
    (about State.reset (.setOut 2#8)).stimuli = [.event (.setOut 2#8)] := by decide

/-- The run of a bench with one byte pending under ticks alone: the first detects it, every other changes nothing. -/
def tickRun : Nat → State
  | 0 => bench 0x00#8 0x80#8 [0x41#8]
  | 1 => { bench 0x80#8 0x80#8 [0x41#8] with irqlog := [18], out := { Outputs.idle with irqReq := some 18 } }
  | _ + 2 => { bench 0x80#8 0x80#8 [0x41#8] with irqlog := [18] }

theorem witness_PendingByteIsEventuallyDetected : InfiniteRun (fun _ => .event .tick) tickRun ∧
    PollWeaklyFair (fun _ => .event .tick) tickRun ∧
    (tickRun 0).cfg.WF ∧ (tickRun 0).created = true ∧
    endpointAt (tickRun 0) (tickRun 0).inEP = some (finiteSource [0x41#8]) ∧
    (finiteSource [0x41#8]).inputKind = .canonical ∧ (finiteSource [0x41#8]).pending ≠ [] ∧
    (∀ m, 0 ≤ m → (tickRun m).inEP = (tickRun 0).inEP) := by
  refine ⟨?_, fun n => ⟨n, le_refl n, ?_⟩, by decide, rfl, rfl, rfl, by decide, ?_⟩
  · rintro (_ | _ | n)
    · rfl
    · rfl
    · simp only [tickRun]; rfl
  · rcases n with _ | _ | n <;> rfl
  · rintro (_ | _ | m) _ <;> rfl

end Sys2Proof.Tests
end

/-! Proofs of the scope family: a step without a stimulus, the environment's own acts, and the launch. -/

namespace Sys2Proof.Machine

/-! ### What a step does with each of these stimuli -/

theorem step_of_no_stimulus {s : State} (h : s.stimuli = []) : step s = .next (releaseOutputs s) := by
  simp [step, h]

theorem step_of_event {s : State} {ev : Event} {rest : List Stimulus} (h : s.stimuli = .event ev :: rest) :
    step s = perform (resolveEvent s ev) { s with stimuli := rest } := by
  simp [step, h, resolve]

theorem step_of_arrive {s : State} {ref : Nat} {b : Byte} {rest : List Stimulus}
    (h : s.stimuli = .event (.arrive ref b) :: rest) :
    step s = arriveAt ref b (releaseOutputs { s with stimuli := rest }) :=
  step_of_event h

theorem step_of_drain {s : State} {ref : Nat} {rest : List Stimulus} (h : s.stimuli = .event (.drain ref) :: rest) :
    step s = drainAt ref (releaseOutputs { s with stimuli := rest }) :=
  step_of_event h

/-! ### When the environment's acts are refused -/

theorem arriveAt_of_not_open {s : State} {ref : Nat} (b : Byte)
    (h : ∀ ep, endpointAt s ref = some ep → ep.isOpen = false) : arriveAt ref b s = .refused (.endpointNotOpen ref) := by
  unfold arriveAt
  cases he : endpointAt s ref with
  | none => rfl
  | some ep => simp [h ep he]

theorem drainAt_of_not_drainable {s : State} {ref : Nat}
    (h : ∀ ep, endpointAt s ref = some ep → isHostStream ep.inputKind = false ∨ ep.pending = []) :
    drainAt ref s = .refused (.endpointNotDrainable ref) := by
  unfold drainAt
  cases he : endpointAt s ref with
  | none => rfl
  | some ep =>
    obtain hk | hp := h ep he
    · simp [hk]
    · simp [hp]

/-! ### The frame of an update of one endpoint -/

theorem endpointAt_updateEndpoint_of_ne {ref ref' : Nat} (h : ref' ≠ ref) (f : Endpoint → Endpoint) (s : State) :
    endpointAt (updateEndpoint ref f s) ref' = endpointAt s ref' := by
  rw [endpointAt_updateEndpoint, if_neg h.symm]

theorem endpointAt_updateEndpoint_of_some {s : State} {ref : Nat} {ep : Endpoint} (h : endpointAt s ref = some ep)
    (f : Endpoint → Endpoint) : endpointAt (updateEndpoint ref f s) ref = some (f ep) := by
  rw [endpointAt_updateEndpoint_self, h, Option.map_some]

/-- Settles O32: the step answers the update of the one entry, or it is refused. -/
theorem environmentTouchesOnlyPendingBytes : Obligations.EnvironmentTouchesOnlyPendingBytes := by
  refine ⟨fun s rest ref ep hep => ⟨fun b hs hopen => ?arrival, fun b more hs hkind hp => ?loss⟩,
    fun s rest ref => ⟨fun b hs hclosed => ?arrivalRefused, fun hs hnone => ?lossRefused⟩⟩
  case arrival =>
    have hnext := (step_of_arrive hs).trans (arriveAt_eq_next.2 ⟨ep, hep, hopen, rfl⟩)
    exact ⟨_, hnext, rfl, endpointAt_updateEndpoint_of_some hep _,
      fun _ hne => endpointAt_updateEndpoint_of_ne hne _ _⟩
  case loss =>
    have hnext := (step_of_drain hs).trans (drainAt_eq_next.2 ⟨ep, hep, hkind, by simp [hp], rfl⟩)
    have hdrop : ep.dropOldest = { ep with pending := more } := by simp [Endpoint.dropOldest, hp]
    exact ⟨_, hnext, rfl, rfl, hdrop ▸ endpointAt_updateEndpoint_of_some hep _,
      fun _ hne => endpointAt_updateEndpoint_of_ne hne _ _⟩
  case arrivalRefused => exact (step_of_arrive hs).trans (arriveAt_of_not_open b hclosed)
  case lossRefused => exact (step_of_drain hs).trans (drainAt_of_not_drainable hnone)

/-- Settles O7: all a step without a stimulus does is to end the strobes. -/
theorem stepWithoutStimulusChangesNothing : Obligations.StepWithoutStimulusChangesNothing :=
  fun _ h => ⟨_, step_of_no_stimulus h, rfl⟩

/-! ### The invariant where the block does not exist, or hands nothing out -/

theorem collaboratorsAgree_of_not_created {s : State} (h : s.created = false) : CollaboratorsAgree s :=
  fun hc => by simp [h] at hc

theorem reservedBitsKept_of_not_created {s : State} (h : s.created = false) : ReservedBitsKept s :=
  fun hc => by simp [h] at hc

theorem outputsSound_of_idle {s : State} (h : s.out = Outputs.idle) : OutputsSound s := by
  simp [OutputsSound, h]

/-- At the launch both references are the standard entries, and no bound input is asked to be supported yet. -/
theorem endpointsBound_launch (c : Config) {table : List Endpoint} (h : standardOutput < table.length) :
    EndpointsBound (State.launch c table) :=
  ⟨h, Nat.lt_trans Nat.zero_lt_one h, h, Bool.noConfusion⟩

/-- Settles O42, conjunct by conjunct of the invariant: the launch is not created, its logs are empty and its outputs idle. -/
theorem launchSatisfiesInvariant : Obligations.LaunchSatisfiesInvariant := by
  intro c table hwf hlen
  have hnot : (State.launch c table).created = false := rfl
  have hlogs : LogsSound (State.launch c table) := ⟨List.forall_mem_nil _, List.forall_mem_nil _⟩
  exact ⟨hwf, endpointsBound_launch c hlen, collaboratorsAgree_of_not_created hnot, fun _ => ⟨rfl, rfl, rfl, rfl⟩,
    reservedBitsKept_of_not_created hnot, hlogs, outputsSound_of_idle rfl⟩

end Sys2Proof.Machine

/-! Proofs of the state family: every operation is a precondition and an effect; what each effect leaves of each part of the state; the invariant; and the two byte streams. -/

namespace Sys2Proof.Machine

/-! ### An operation as a precondition and an effect -/

/-- Why `i` stops in `s`, if it does (rules R63, R67, R88, R100). -/
def stopOf (i : Instr) (s : State) : Option (Fault ⊕ Refusal) :=
  match i with
  | .create => if s.created then some (.inr .secondCreate) else none
  | .rxArrive _ =>
    if (endpointAt s s.inEP).any Endpoint.isOpen then none else some (.inr (.endpointNotOpen s.inEP))
  | .setInputEndpoint e | .setOutputEndpoint e =>
    if s.created then
      if e.toNat < s.endpoints.length then none else some (.inr (.endpointBeyondTable e))
    else some (.inl (.preconditionViolation i.mnemonic))
  | .readStatus | .writeStatus _ | .readControl | .writeControl _ | .readData | .writeData _ | .poll =>
    if s.created then none else some (.inl (.preconditionViolation i.mnemonic))

/-- The state `i` leaves where nothing stops it. -/
def effect (i : Instr) (s : State) : State :=
  match i with
  | .readStatus => answer (statusRead s) (releaseOutputs s)
  | .writeStatus v => { releaseOutputs s with status := statusWritten s.cfg s.status v }
  | .readControl => answer s.control (releaseOutputs s)
  | .writeControl v => { releaseOutputs s with control := v }
  | .readData => if rxcSet s then consumeByte (releaseOutputs s) else answer 0x00#8 (releaseOutputs s)
  | .writeData v => { txWrite v (releaseOutputs s) with status := statusAfterTransmit s.cfg s.status }
  | .poll =>
    if rxAvail s then detectInput (afterRxAvail (releaseOutputs s)) else afterRxAvail (releaseOutputs s)
  | .create =>
    if inputSupported s standardInput then registerBlock (initialRecord (releaseOutputs s))
    else raiseConfigurationError standardInput (releaseOutputs s)
  | .setInputEndpoint e => rebindInput e.toNat (releaseOutputs s)
  | .setOutputEndpoint e => rebindOutput e.toNat (releaseOutputs s)
  | .rxArrive b => updateEndpoint s.inEP (Endpoint.append b) (releaseOutputs s)

/-- The outcome of an operation from what stops it and its effect. -/
def outcomeOf : Option (Fault ⊕ Refusal) → State → Result
  | none, t => .next t
  | some (.inl f), _ => .fault f
  | some (.inr r), _ => .refused r

theorem outcomeOf_eq_next {o : Option (Fault ⊕ Refusal)} {t u : State} :
    outcomeOf o u = .next t ↔ o = none ∧ t = u := by
  rcases o with _ | _ | _ <;> simp [outcomeOf, eq_comm]

theorem outcomeOf_eq_fault {o : Option (Fault ⊕ Refusal)} {f : Fault} {u : State} :
    outcomeOf o u = .fault f ↔ o = some (.inl f) := by
  rcases o with _ | _ | _ <;> simp [outcomeOf]

theorem outcomeOf_eq_refused {o : Option (Fault ⊕ Refusal)} {r : Refusal} {u : State} :
    outcomeOf o u = .refused r ↔ o = some (.inr r) := by
  rcases o with _ | _ | _ <;> simp [outcomeOf]

theorem requireCreated_eq_outcomeOf (op : String) (s t : State) :
    requireCreated op s (.next t) =
      outcomeOf (if s.created then none else some (.inl (.preconditionViolation op))) t := by
  cases h : s.created <;> simp [requireCreated, h, outcomeOf]

theorem requireCreated_index_eq_outcomeOf (op : String) (e : BitVec 8) (s t : State) :
    requireCreated op s (if e.toNat < s.endpoints.length then .next t else .refused (.endpointBeyondTable e)) =
      outcomeOf (if s.created then
          if e.toNat < s.endpoints.length then none else some (.inr (.endpointBeyondTable e))
        else some (.inl (.preconditionViolation op))) t := by
  cases h : s.created <;> by_cases he : e.toNat < s.endpoints.length <;> simp [requireCreated, h, he, outcomeOf]

theorem arriveAt_eq_outcomeOf (ref : Nat) (b : Byte) (s : State) :
    arriveAt ref b s =
      outcomeOf (if (endpointAt s ref).any Endpoint.isOpen then none else some (.inr (.endpointNotOpen ref)))
        (updateEndpoint ref (Endpoint.append b) s) := by
  unfold arriveAt
  cases endpointAt s ref with
  | none => simp [outcomeOf]
  | some ep => cases h : ep.isOpen <;> simp [h, outcomeOf]

theorem execCreate_eq_outcomeOf (s : State) :
    execCreate s = outcomeOf (stopOf .create s) (effect .create s) := by
  cases hc : s.created <;> cases hk : inputSupported s standardInput <;>
    simp [execCreate, stopOf, effect, outcomeOf, hc, hk]

/-- Every operation, whole: it stops or leaves its effect. -/
theorem exec_eq_outcomeOf (i : Instr) (s : State) : exec i s = outcomeOf (stopOf i s) (effect i s) := by
  cases i with
  | create => exact execCreate_eq_outcomeOf s
  | setInputEndpoint e => exact requireCreated_index_eq_outcomeOf _ e s _
  | setOutputEndpoint e => exact requireCreated_index_eq_outcomeOf _ e s _
  | rxArrive b => exact arriveAt_eq_outcomeOf s.inEP b (releaseOutputs s)
  | readStatus | writeStatus | readControl | writeControl | readData | writeData | poll =>
    exact requireCreated_eq_outcomeOf _ s _

theorem exec_eq_next {i : Instr} {s t : State} : exec i s = .next t ↔ stopOf i s = none ∧ t = effect i s := by
  rw [exec_eq_outcomeOf, outcomeOf_eq_next]

theorem exec_eq_fault {i : Instr} {s : State} {f : Fault} : exec i s = .fault f ↔ stopOf i s = some (.inl f) := by
  rw [exec_eq_outcomeOf, outcomeOf_eq_fault]

theorem exec_eq_refused {i : Instr} {s : State} {r : Refusal} :
    exec i s = .refused r ↔ stopOf i s = some (.inr r) := by
  rw [exec_eq_outcomeOf, outcomeOf_eq_refused]

/-- `create` answers only before the block exists (rule R88). -/
theorem ne_create_of_exec_next {i : Instr} {s t : State} (hc : s.created = true) (h : exec i s = .next t) :
    i ≠ .create := by
  rintro rfl
  simpa [stopOf, hc] using (exec_eq_next.1 h).1

/-- Before `create` only `create` itself and the environment's arrival have a stop of their own (rule R100). -/
theorem stopOf_of_not_created {i : Instr} {s : State} (hc : s.created = false) (hi : i ≠ .create)
    (hr : ∀ b, i ≠ .rxArrive b) : stopOf i s = some (.inl (.preconditionViolation i.mnemonic)) := by
  cases i with
  | create => exact absurd rfl hi
  | rxArrive b => exact absurd rfl (hr b)
  | readStatus | writeStatus | readControl | writeControl | readData | writeData | poll
  | setInputEndpoint | setOutputEndpoint => simp [stopOf, hc]

/-- Settles O29: the precondition is the first thing every such operation looks at. -/
theorem operationsBeforeCreateFault : Obligations.OperationsBeforeCreateFault :=
  fun _ _ hc hi hr => exec_eq_fault.2 (stopOf_of_not_created hc hi hr)

/-- Settles O40: nothing stops `create` at that launch, and its standard input is supported. -/
theorem resetIsWhatCreateLeaves : Obligations.ResetIsWhatCreateLeaves :=
  exec_eq_next.2 ⟨rfl, rfl⟩

/-! ### What the effects leave alone -/

@[simp] theorem rxcSet_releaseOutputs (s : State) : rxcSet (releaseOutputs s) = rxcSet s := rfl
@[simp] theorem rxAnswer_releaseOutputs (s : State) : rxAnswer (releaseOutputs s) = rxAnswer s := rfl
@[simp] theorem txAccepted_releaseOutputs (s : State) : txAccepted (releaseOutputs s) = txAccepted s := rfl
@[simp] theorem inputSupported_releaseOutputs (s : State) (ref : Nat) :
    inputSupported (releaseOutputs s) ref = inputSupported s ref := rfl
@[simp] theorem rxcSet_afterRxAvail (s : State) : rxcSet (afterRxAvail s) = rxcSet s := by simp [rxcSet]
@[simp] theorem rxcieSet_releaseOutputs (s : State) : rxcieSet (releaseOutputs s) = rxcieSet s := rfl
@[simp] theorem rxcieSet_afterRxAvail (s : State) : rxcieSet (afterRxAvail s) = rxcieSet s := by simp [rxcieSet]

theorem effect_cfg (i : Instr) (s : State) : (effect i s).cfg = s.cfg := by
  cases i <;> simp only [effect]
  case readData | poll | create => split <;> simp
  all_goals simp

/-- No operation but `create` touches the collaborators' tables (rules R91, R92). -/
theorem effect_collaborators {i : Instr} (hi : i ≠ .create) (s : State) :
    (effect i s).handlers = s.handlers ∧ (effect i s).pollEnrolled = s.pollEnrolled := by
  cases i <;> simp only [effect]
  case create => exact absurd rfl hi
  case readData | poll => split <;> simp
  all_goals simp

theorem effect_inEP {i : Instr} (hi : bindsInput i = false) (s : State) : (effect i s).inEP = s.inEP := by
  cases i <;> simp only [effect]
  case create | setInputEndpoint => simp [bindsInput] at hi
  case readData | poll => split <;> simp
  all_goals simp

theorem effect_outEP {i : Instr} (hi : bindsOutput i = false) (s : State) : (effect i s).outEP = s.outEP := by
  cases i <;> simp only [effect]
  case create | setOutputEndpoint => simp [bindsOutput] at hi
  case readData | poll => split <;> simp
  all_goals simp

theorem effect_control {i : Instr} (hi : i ≠ .create) (hw : ∀ v, i ≠ .writeControl v) (s : State) :
    (effect i s).control = s.control := by
  cases i <;> simp only [effect]
  case create => exact absurd rfl hi
  case writeControl v => exact absurd rfl (hw v)
  case readData | poll => split <;> simp
  all_goals simp

/-- What a mask that shows neither TXC nor RXC shows of the status changes only in a status write (rules R24, R27). -/
theorem effect_status_and {i : Instr} (hi : i ≠ .create) (hw : ∀ v, i ≠ .writeStatus v) {s : State} {m : Byte}
    (htxc : m.getLsbD s.cfg.txcBit.val = false) (hrxc : m.getLsbD s.cfg.rxcBit.val = false) :
    (effect i s).status &&& m = s.status &&& m := by
  cases i <;> simp only [effect]
  case create => exact absurd rfl hi
  case writeStatus v => exact absurd rfl (hw v)
  case readData =>
    split
    · rw [consumeByte_status]
      exact clearBits_and_of_not hrxc _
    · rfl
  case writeData =>
    unfold statusAfterTransmit
    split
    · exact setBits_and_of_not htxc _
    · rfl
  case poll =>
    split
    · rw [detectInput_status, afterRxAvail_status, afterRxAvail_cfg]
      exact setBits_and_of_not hrxc _
    · simp
  all_goals simp

/-! ### The logs and the strobes of the effects -/

/-- The one case in which an operation requests the interrupt (rules R82, R102). -/
abbrev Requests (i : Instr) (s : State) : Prop :=
  i = .poll ∧ rxAvail s = true ∧ rxcSet s = false ∧ rxcieSet s = true

/-- A poll that finds input requests exactly on the enabled rising edge of RXC. -/
theorem requests_poll {s : State} (ha : rxAvail s = true) : (!rxcSet s && rxcieSet s) = decide (Requests .poll s) := by
  simp [Requests, ha]

theorem effect_irqlog {i : Instr} (hi : i ≠ .create) (s : State) :
    (effect i s).irqlog = s.irqlog ++ if Requests i s then [s.cfg.rxIrqLine] else [] := by
  cases i <;> simp only [effect]
  case create => exact absurd rfl hi
  case poll =>
    split
    · rename_i ha
      by_cases hr : Requests .poll s <;> simp [requests_poll ha, hr]
    · rename_i ha
      simp [ha]
  case readData => split <;> simp
  all_goals simp

theorem effect_irqReq (i : Instr) (s : State) :
    (effect i s).out.irqReq = if Requests i s then some s.cfg.rxIrqLine else none := by
  cases i <;> simp only [effect]
  case poll =>
    split
    · rename_i ha
      by_cases hr : Requests .poll s <;> simp [requests_poll ha, hr]
    · rename_i ha
      simp [ha]
  case readData | create => split <;> simp
  case setInputEndpoint e => obtain ⟨-, h⟩ | ⟨-, h⟩ := rebindInput_cases e.toNat (releaseOutputs s) <;> simp [h]
  all_goals simp

theorem transmissions_of_ne_writeData {i : Instr} (hw : ∀ v, i ≠ .writeData v) : transmissions [i] = [] := by
  cases i with
  | writeData v => exact absurd rfl (hw v)
  | readStatus | writeStatus | readControl | writeControl | readData | poll | create | setInputEndpoint
  | setOutputEndpoint | rxArrive => rfl

theorem effect_txlog {i : Instr} (hi : i ≠ .create) (s : State) :
    (effect i s).txlog = s.txlog ++ (transmissions [i]).map (fun b => (s.outEP, b)) := by
  cases i <;> simp only [effect]
  case create => exact absurd rfl hi
  case readData | poll => split <;> simp [transmissions]
  all_goals simp [transmissions]

theorem effect_txPut (i : Instr) (s : State) : (effect i s).out.txPut = (transmissions [i]).head? := by
  cases i <;> simp only [effect]
  case poll => split <;> simp [transmissions, apply_ite Outputs.txPut]
  case readData | create => split <;> simp [transmissions]
  case setInputEndpoint e =>
    obtain ⟨-, h⟩ | ⟨-, h⟩ := rebindInput_cases e.toNat (releaseOutputs s) <;> simp [h, transmissions]
  all_goals simp [transmissions]

/-- A `ConfigurationError` names an input the build does not support (rule R93). -/
theorem effect_raised {i : Instr} {s : State} {err : HostError} (h : (effect i s).out.raised = some err) :
    ∃ ref, err = .configurationError ref ∧ inputSupported s ref = false := by
  cases i <;> simp only [effect] at h
  case create =>
    split at h
    · simp at h
    · rename_i hn
      exact ⟨standardInput, by simpa using h.symm, by simpa using hn⟩
  case setInputEndpoint e =>
    obtain ⟨-, hr⟩ | ⟨hn, hr⟩ := rebindInput_cases e.toNat (releaseOutputs s)
    · simp [hr] at h
    · exact ⟨e.toNat, by simpa [hr] using h.symm, hn⟩
  case poll => split at h <;> simp [apply_ite Outputs.raised] at h
  case readData => split at h <;> simp at h
  all_goals simp at h

/-! ### The endpoint table after an effect -/

/-- The entry an operation can change: the bound output in a `writeData`, and else the bound input. -/
def touchedEntry (i : Instr) (s : State) : Nat :=
  match i with
  | .writeData _ => s.outEP
  | .readStatus | .writeStatus _ | .readControl | .writeControl _ | .readData | .poll | .create
  | .setInputEndpoint _ | .setOutputEndpoint _ | .rxArrive _ => s.inEP

/-- What an operation does to that entry (rules R30, R31, R32). -/
def entryEffect (i : Instr) (s : State) : Endpoint → Endpoint :=
  match i with
  | .readData => if rxcSet s = true ∧ (rxAnswer s).isSome = true then Endpoint.dropOldest else id
  | .writeData v => if txAccepted s = true then Endpoint.receive v else id
  | .rxArrive b => Endpoint.append b
  | .readStatus | .writeStatus _ | .readControl | .writeControl _ | .poll | .create | .setInputEndpoint _
  | .setOutputEndpoint _ => id

/-- Every effect changes the table in one entry at most. -/
theorem effect_endpoints (i : Instr) (s : State) :
    (effect i s).endpoints = (updateEndpoint (touchedEntry i s) (entryEffect i s) s).endpoints := by
  cases i <;> simp only [effect, entryEffect, touchedEntry, updateEndpoint_endpoints]
  case readData => cases hr : rxcSet s <;> cases ha : rxAnswer s <;> simp [ha]
  case writeData v => cases ha : txAccepted s <;> simp [ha]
  case poll | create => split <;> simp
  all_goals simp

theorem entryEffect_inputKind (i : Instr) (s : State) (ep : Endpoint) :
    (entryEffect i s ep).inputKind = ep.inputKind := by
  cases i <;> simp only [entryEffect]
  case readData | writeData => split <;> rfl
  all_goals rfl

theorem entryEffect_outputKind (i : Instr) (s : State) (ep : Endpoint) :
    (entryEffect i s ep).outputKind = ep.outputKind := by
  cases i <;> simp only [entryEffect]
  case readData | writeData => split <;> rfl
  all_goals rfl

theorem effect_endpointAt (i : Instr) (s : State) (ref : Nat) :
    endpointAt (effect i s) ref =
      if touchedEntry i s = ref then (endpointAt s ref).map (entryEffect i s) else endpointAt s ref :=
  (endpointAt_congr (effect_endpoints i s) ref).trans (endpointAt_updateEndpoint ..)

theorem effect_endpoints_length (i : Instr) (s : State) : (effect i s).endpoints.length = s.endpoints.length := by
  rw [effect_endpoints, length_updateEndpoint]

theorem effect_inputSupported (i : Instr) (s : State) (ref : Nat) :
    inputSupported (effect i s) ref = inputSupported s ref :=
  (inputSupported_congr (s := updateEndpoint _ _ s) (effect_cfg i s) (effect_endpoints i s) ref).trans
    (inputSupported_updateEndpoint s _ ref (entryEffect_inputKind i s))

/-! ### The flags the invariant keeps -/

/-- DRE and the five other bits are no RXC and no TXC (rule R7). -/
theorem dreMask_getLsbD_of_ne {c : Config} {i : Fin 8} (h : c.dreBit ≠ i) : (dreMask c).getLsbD i.val = false := by
  rw [dreMask, bitMask_getLsbD, decide_eq_false (Fin.val_ne_of_ne h)]

theorem otherMask_getLsbD_txc (c : Config) : (otherMask c).getLsbD c.txcBit.val = false := by
  rw [otherMask_getLsbD]
  simp

theorem otherMask_getLsbD_rxc (c : Config) : (otherMask c).getLsbD c.rxcBit.val = false := by
  rw [otherMask_getLsbD]
  simp

/-- Rule R71, corner 4, of the masked byte. -/
theorem statusWritten_and_dreMask {c : Config} (h : c.WF) (status v : Byte) :
    statusWritten c status v &&& dreMask c = status &&& dreMask c := by
  rw [and_eq_and_iff]
  intro j _ hm
  obtain rfl : c.dreBit.val = j := by simpa [dreMask, bitMask_getLsbD] using hm
  simpa only [dreMask, isset_bitMask] using isset_statusWritten_dre c (dre_ne_txc h) status v

/-- The stored DRE bit never changes (rule R24). -/
theorem effect_dre {i : Instr} (hi : i ≠ .create) {s : State} (hwf : s.cfg.WF) :
    (effect i s).status &&& dreMask s.cfg = s.status &&& dreMask s.cfg := by
  by_cases hw : ∃ v, i = .writeStatus v
  · obtain ⟨v, rfl⟩ := hw
    exact statusWritten_and_dreMask hwf s.status v
  · exact effect_status_and hi (not_exists.1 hw) (dreMask_getLsbD_of_ne (dre_ne_txc hwf))
      (dreMask_getLsbD_of_ne (dre_ne_rxc hwf))

/-- The five other bits change only in a status write under `STATUS_STORE_OTHER` (rule R27). -/
theorem effect_otherBits {i : Instr} (hi : i ≠ .create) {s : State}
    (hw : (∃ v, i = .writeStatus v) → s.cfg.statusStoreOther = false) :
    (effect i s).status &&& otherMask s.cfg = s.status &&& otherMask s.cfg := by
  by_cases h : ∃ v, i = .writeStatus v
  · have hstore := hw h
    obtain ⟨v, rfl⟩ := h
    simpa [effect, hstore] using statusWritten_and_otherMask s.cfg s.status v
  · exact effect_status_and hi (not_exists.1 h) (otherMask_getLsbD_txc _) (otherMask_getLsbD_rxc _)

/-! ### The invariant, conjunct by conjunct, over an operation of the created block -/

theorem lt_length_of_inputSupported {s : State} {ref : Nat} (h : inputSupported s ref = true) :
    ref < s.endpoints.length := by
  by_contra hge
  simp [inputSupported, endpointAt, List.getElem?_eq_none (Nat.le_of_not_lt hge)] at h

/-- The input binding changes only to a supported input, in `setInputEndpoint` (rules R35, R89). -/
theorem effect_inEP_cases {i : Instr} (hi : i ≠ .create) (s : State) :
    (effect i s).inEP = s.inEP ∨
      ∃ e, i = .setInputEndpoint e ∧ (effect i s).inEP = e.toNat ∧ inputSupported s e.toNat = true := by
  cases i with
  | create => exact absurd rfl hi
  | setInputEndpoint e =>
    obtain ⟨hs, h⟩ | ⟨-, h⟩ := rebindInput_cases e.toNat (releaseOutputs s)
    · exact .inr ⟨e, rfl, by simp [effect, h], hs⟩
    · exact .inl (by simp [effect, h])
  | readStatus | writeStatus | readControl | writeControl | readData | writeData | poll | setOutputEndpoint
  | rxArrive => exact .inl (effect_inEP rfl s)

/-- The output binding changes only to the operand of a `setOutputEndpoint` (rules R35, R90). -/
theorem effect_outEP_cases {i : Instr} (hi : i ≠ .create) (s : State) :
    (effect i s).outEP = s.outEP ∨ ∃ e, i = .setOutputEndpoint e ∧ (effect i s).outEP = e.toNat := by
  cases i with
  | create => exact absurd rfl hi
  | setOutputEndpoint e => exact .inr ⟨e, rfl, rfl⟩
  | readStatus | writeStatus | readControl | writeControl | readData | writeData | poll | setInputEndpoint
  | rxArrive => exact .inl (effect_outEP rfl s)

theorem exec_endpointsBound {i : Instr} {s t : State} (hs : EndpointsBound s) (hc : s.created = true)
    (h : exec i s = .next t) : EndpointsBound t := by
  obtain ⟨hstd, hin, hout, hsup⟩ := hs
  have hi := ne_create_of_exec_next hc h
  obtain ⟨hstop, rfl⟩ := exec_eq_next.1 h
  have hin' : inputSupported s (effect i s).inEP = true := by
    obtain heq | ⟨e, -, heq, hsup'⟩ := effect_inEP_cases hi s
    · exact heq ▸ hsup hc
    · exact heq ▸ hsup'
  have hout' : (effect i s).outEP < s.endpoints.length := by
    obtain heq | ⟨e, rfl, heq⟩ := effect_outEP_cases hi s
    · exact heq ▸ hout
    · exact (execSetOutputEndpoint_eq_next.1 h).2.1
  simp only [EndpointsBound, effect_endpoints_length, effect_inputSupported]
  exact ⟨hstd, lt_length_of_inputSupported hin', hout', fun _ => hin'⟩

/-- TXC rises only under `TXC_SET_ON_WRITE` (rule R22). -/
theorem txcSet_of_exec {i : Instr} {s t : State} (hwf : s.cfg.WF) (hc : s.created = true) (h : exec i s = .next t)
    (hno : s.cfg.txcSetOnWrite = false) (ht : txcSet t = true) : txcSet s = true := by
  rw [exec_txc hwf hc h] at ht
  cases i <;> simp_all

theorem exec_reservedBitsKept {i : Instr} {s t : State} (hwf : s.cfg.WF) (hs : ReservedBitsKept s)
    (hc : s.created = true) (h : exec i s = .next t) : ReservedBitsKept t := by
  have hi := ne_create_of_exec_next hc h
  have htxc := txcSet_of_exec hwf hc h
  obtain ⟨-, rfl⟩ := exec_eq_next.1 h
  obtain ⟨hdre, hother, htxcReset⟩ := hs hc
  intro _
  rw [effect_cfg]
  exact ⟨(effect_dre hi hwf).trans hdre, fun hno => (effect_otherBits hi fun _ => hno).trans (hother hno),
    fun hno hset => htxcReset hno (htxc hno hset)⟩

theorem exec_logsSound {i : Instr} {s t : State} (hs : LogsSound s) (hb : EndpointsBound s) (hc : s.created = true)
    (h : exec i s = .next t) : LogsSound t := by
  have hi := ne_create_of_exec_next hc h
  obtain ⟨-, rfl⟩ := exec_eq_next.1 h
  obtain ⟨hirq, htx⟩ := hs
  obtain ⟨-, -, hout, -⟩ := hb
  simp only [LogsSound, effect_cfg, effect_endpoints_length, effect_irqlog hi, effect_txlog hi, List.mem_append]
  refine ⟨?_, ?_⟩
  · rintro line (hmem | hmem)
    · exact hirq line hmem
    · split at hmem <;> simp_all
  · rintro entry (hmem | hmem)
    · exact htx entry hmem
    · obtain ⟨b, -, rfl⟩ := List.mem_map.1 hmem
      exact hout

/-- The byte an operation puts out is the newest entry of its log (rule R31). -/
theorem effect_txPut_all {i : Instr} (hi : i ≠ .create) (s : State) :
    (effect i s).out.txPut.all (fun b => (effect i s).txlog.getLast? == some ((effect i s).outEP, b)) = true := by
  by_cases hw : ∃ v, i = .writeData v
  · obtain ⟨v, rfl⟩ := hw
    simp [effect_txPut, effect_txlog hi, effect_outEP (i := .writeData v) rfl, transmissions]
  · simp [effect_txPut, transmissions_of_ne_writeData (not_exists.1 hw)]

theorem exec_outputsSound {i : Instr} {s t : State} (hwf : s.cfg.WF) (hc : s.created = true)
    (h : exec i s = .next t) : OutputsSound t := by
  have hi := ne_create_of_exec_next hc h
  have hrxc := exec_rxc hwf hc h
  obtain ⟨-, rfl⟩ := exec_eq_next.1 h
  refine ⟨?_, effect_txPut_all hi s, ?_⟩
  · by_cases hr : Requests i s
    · have hlog := effect_irqlog hi s
      have hreq := effect_irqReq i s
      rw [if_pos hr] at hlog hreq
      obtain ⟨rfl, ha, -, he⟩ := hr
      have hcie : rxcieSet (effect .poll s) = true := by
        simpa [rxcieSet, effect_control hi (by simp), effect_cfg] using he
      right
      simp [hreq, hlog, effect_cfg, hcie, hrxc, ha]
    · exact .inl (by rw [effect_irqReq, if_neg hr])
  · cases hraised : (effect i s).out.raised with
    | none => rfl
    | some err =>
      obtain ⟨ref, rfl, hn⟩ := effect_raised hraised
      simp [effect_inputSupported, hn]

theorem exec_keepsInv_of_created {i : Instr} {s t : State} (hI : s.Inv) (hc : s.created = true)
    (h : exec i s = .next t) : t.Inv := by
  obtain ⟨hwf, hb, hcol, -, hres, hlog, -⟩ := hI
  have hcfg : t.cfg = s.cfg := (exec_created hc h).2
  have hcreated : t.created = true := (exec_created hc h).1
  have hcol' : CollaboratorsAgree t := by
    obtain ⟨hh, hp⟩ := effect_collaborators (ne_create_of_exec_next hc h) s
    obtain ⟨-, rfl⟩ := exec_eq_next.1 h
    intro _
    rw [hh, hp, hcfg]
    exact hcol hc
  exact ⟨hcfg ▸ hwf, exec_endpointsBound hb hc h, hcol', fun hn => by simp [hcreated] at hn,
    exec_reservedBitsKept hwf hres hc h, exec_logsSound hlog hb hc h, exec_outputsSound hwf hc h⟩

/-! ### The invariant over what else a step can do -/

/-- What is handed out is checked by `OutputsSound` and by no other conjunct. -/
theorem Inv_of_withOut {s : State} {o : Outputs} (hI : s.Inv) (ho : OutputsSound { s with out := o }) :
    ({ s with out := o } : State).Inv := by
  obtain ⟨hwf, hb, hcol, hnot, hres, hlog, -⟩ := hI
  exact ⟨hwf, hb, hcol, hnot, hres, hlog, ho⟩

theorem releaseOutputs_keepsInv {s : State} (hI : s.Inv) : (releaseOutputs s).Inv :=
  Inv_of_withOut hI (outputsSound_of_idle rfl)

/-- An update of one entry that keeps its kind, where nothing is handed out (rules R32, R67, R131). -/
theorem updateEndpoint_keepsInv {s : State} {f : Endpoint → Endpoint} (ref : Nat) (hI : s.Inv)
    (hidle : s.out = Outputs.idle) (hf : ∀ ep, (f ep).inputKind = ep.inputKind) : (updateEndpoint ref f s).Inv := by
  obtain ⟨hwf, hb, hcol, hnot, hres, ⟨hirq, htx⟩, -⟩ := hI
  refine ⟨hwf, ?_, hcol, hnot, hres, ⟨hirq, ?_⟩, outputsSound_of_idle hidle⟩
  · rw [EndpointsBound, length_updateEndpoint, inputSupported_updateEndpoint s ref _ hf]
    exact hb
  · rw [length_updateEndpoint]
    exact htx

/-- The first `create` (rules R36, R88, R91, R92): the base case of the created block. -/
theorem create_keepsInv {s : State} (hI : s.Inv) (hc : s.created = false)
    (hsup : inputSupported s standardInput = true) : (registerBlock (initialRecord (releaseOutputs s))).Inv := by
  obtain ⟨hwf, ⟨hstd, -, -, -⟩, -, hnot, -, -, -⟩ := hI
  obtain ⟨hh, -, -, -⟩ := hnot hc
  refine ⟨hwf, ⟨hstd, Nat.lt_trans Nat.zero_lt_one hstd, hstd, fun _ => hsup⟩, fun _ => ⟨?_, rfl⟩,
    Bool.noConfusion, fun _ => ⟨rfl, fun _ => rfl, fun _ h => h⟩, ?_, outputsSound_of_idle rfl⟩
  · simp [hh, addressMap]
  · exact ⟨List.forall_mem_nil _, List.forall_mem_nil _⟩

theorem execCreate_keepsInv {s t : State} (hI : s.Inv) (h : execCreate s = .next t) : t.Inv := by
  obtain ⟨hc, ⟨hsup, rfl⟩ | ⟨hsup, rfl⟩⟩ := execCreate_eq_next.1 h
  · exact create_keepsInv hI hc hsup
  · exact Inv_of_withOut (releaseOutputs_keepsInv hI) ⟨.inl rfl, rfl, congrArg Bool.not hsup⟩

theorem arriveAt_keepsInv {ref : Nat} {b : Byte} {s t : State} (hI : s.Inv)
    (h : arriveAt ref b (releaseOutputs s) = .next t) : t.Inv := by
  obtain ⟨-, -, -, rfl⟩ := arriveAt_eq_next.1 h
  exact updateEndpoint_keepsInv ref (releaseOutputs_keepsInv hI) rfl fun _ => rfl

theorem drainAt_keepsInv {ref : Nat} {s t : State} (hI : s.Inv)
    (h : drainAt ref (releaseOutputs s) = .next t) : t.Inv := by
  obtain ⟨-, -, -, -, rfl⟩ := drainAt_eq_next.1 h
  exact updateEndpoint_keepsInv ref (releaseOutputs_keepsInv hI) rfl fun _ => rfl

theorem exec_keepsInv {i : Instr} {s t : State} (hI : s.Inv) (h : exec i s = .next t) : t.Inv := by
  cases hc : s.created with
  | true => exact exec_keepsInv_of_created hI hc h
  | false =>
    by_cases hi : i = .create
    · subst hi
      exact execCreate_keepsInv hI h
    · by_cases hr : ∃ b, i = .rxArrive b
      · obtain ⟨b, rfl⟩ := hr
        exact arriveAt_keepsInv hI h
      · have hstop := stopOf_of_not_created hc hi (not_exists.1 hr)
        exact absurd (exec_eq_next.1 h).1 (by simp [hstop])

theorem exec_cfg {i : Instr} {s t : State} (h : exec i s = .next t) : t.cfg = s.cfg := by
  obtain ⟨-, rfl⟩ := exec_eq_next.1 h
  exact effect_cfg i s

/-- The fresh source of the script's `bind input` is canonical, so its binding never raises (rules R67, R93). -/
theorem inputSupported_finiteSource (bytes : List Byte) (s : State) :
    inputSupported { s with endpoints := s.endpoints ++ [finiteSource bytes] } s.endpoints.length = true := by
  simp [inputSupported, endpointAt, finiteSource, supportedInputKind]

theorem bindFreshInput_eq_next {bytes : List Byte} {s t : State} :
    bindFreshInput bytes s = .next t ↔
      s.created = true ∧
        t = { s with endpoints := s.endpoints ++ [finiteSource bytes], inEP := s.endpoints.length } := by
  rw [bindFreshInput, requireCreated_next_eq_next, rebindInput, if_pos (inputSupported_finiteSource bytes s)]

theorem bindFreshInput_keepsInv {bytes : List Byte} {s t : State} (hI : s.Inv)
    (h : bindFreshInput bytes (releaseOutputs s) = .next t) : t.Inv := by
  obtain ⟨hc, rfl⟩ := bindFreshInput_eq_next.1 h
  obtain ⟨hwf, ⟨hstd, -, hout, -⟩, hcol, hnot, hres, ⟨hirq, htx⟩, -⟩ := hI
  have hlen : s.endpoints.length < (s.endpoints ++ [finiteSource bytes]).length := by simp
  exact ⟨hwf,
    ⟨hstd.trans hlen, hlen, hout.trans hlen, fun _ => inputSupported_finiteSource bytes s⟩,
    hcol, hnot, hres, ⟨hirq, fun entry hmem => (htx entry hmem).trans hlen⟩, outputsSound_of_idle rfl⟩

/-! ### Every kind of step -/

/-- Everything a step can do, with `rest` the stimuli that are left (rules R47 to R49). -/
theorem step_next_cases {s t : State} (h : step s = .next t) :
    ∃ rest u, u = { s with stimuli := rest } ∧
      (t = releaseOutputs u ∨ (∃ i, exec i u = .next t) ∨
        (∃ bytes, bindFreshInput bytes (releaseOutputs u) = .next t) ∨
        (∃ ref b, arriveAt ref b (releaseOutputs u) = .next t) ∨
        ∃ ref, drainAt ref (releaseOutputs u) = .next t) := by
  obtain ⟨-, rfl⟩ | ⟨stim, rest, -, hp⟩ := step_eq_next h
  · exact ⟨s.stimuli, s, rfl, .inl rfl⟩
  · refine ⟨rest, _, rfl, ?_⟩
    obtain ⟨i, -, h⟩ | ⟨bytes, -, h⟩ | ⟨ref, b, -, h⟩ | ⟨ref, -, h⟩ | ⟨-, h⟩ := perform_eq_next hp
    · exact .inr (.inl ⟨i, h⟩)
    · exact .inr (.inr (.inl ⟨bytes, h⟩))
    · exact .inr (.inr (.inr (.inl ⟨ref, b, h⟩)))
    · exact .inr (.inr (.inr (.inr ⟨ref, h⟩)))
    · exact .inl h

theorem step_keepsInv {s t : State} (hI : s.Inv) (h : step s = .next t) : t.Inv := by
  obtain ⟨rest, u, rfl, hu⟩ := step_next_cases h
  have hIu : State.Inv { s with stimuli := rest } := hI
  obtain rfl | ⟨i, h⟩ | ⟨bytes, h⟩ | ⟨ref, b, h⟩ | ⟨ref, h⟩ := hu
  · exact releaseOutputs_keepsInv hIu
  · exact exec_keepsInv hIu h
  · exact bindFreshInput_keepsInv hIu h
  · exact arriveAt_keepsInv hIu h
  · exact drainAt_keepsInv hIu h

theorem step_cfg {s t : State} (h : step s = .next t) : t.cfg = s.cfg := by
  obtain ⟨rest, u, rfl, rfl | ⟨i, h⟩ | ⟨bytes, h⟩ | ⟨ref, b, h⟩ | ⟨ref, h⟩⟩ := step_next_cases h
  · rfl
  · exact exec_cfg (s := { s with stimuli := rest }) h
  · obtain ⟨-, rfl⟩ := bindFreshInput_eq_next.1 h; rfl
  · obtain ⟨-, -, -, rfl⟩ := arriveAt_eq_next.1 h; rfl
  · obtain ⟨-, -, -, -, rfl⟩ := drainAt_eq_next.1 h; rfl

/-- Settles O43: by the kind of stimulus, and for an operation by whether the block exists. -/
theorem everyStepKeepsInvariant : Obligations.EveryStepKeepsInvariant :=
  fun _ _ hI h => ⟨step_keepsInv hI h, step_cfg h⟩

/-- Settles O38: only an operation could, and none does. -/
theorem createdIsNeverCleared : Obligations.CreatedIsNeverCleared := by
  intro s t h hc
  obtain ⟨rest, u, rfl, rfl | ⟨i, h⟩ | ⟨bytes, h⟩ | ⟨ref, b, h⟩ | ⟨ref, h⟩⟩ := step_next_cases h
  · exact hc
  · exact (exec_created (s := { s with stimuli := rest }) hc h).1
  · obtain ⟨-, rfl⟩ := bindFreshInput_eq_next.1 h; exact hc
  · obtain ⟨-, -, -, rfl⟩ := arriveAt_eq_next.1 h; exact hc
  · obtain ⟨-, -, -, -, rfl⟩ := drainAt_eq_next.1 h; exact hc

/-- Settles O41: the launch meets the invariant, and `create` leads from it to the reset state. -/
theorem resetSatisfiesInvariant : Obligations.ResetSatisfiesInvariant :=
  exec_keepsInv (launchSatisfiesInvariant _ _ (by decide) (by decide)) resetIsWhatCreateLeaves

/-! ### Which operation changes which part (rule R35) -/

theorem entryEffect_pending (i : Instr) (s : State) (ep : Endpoint) :
    (entryEffect i s ep).pending = ep.pending ∨
      (∃ b, i = .rxArrive b ∧ (entryEffect i s ep).pending = ep.pending ++ [b]) ∨
      (i = .readData ∧ rxcSet s = true ∧ (entryEffect i s ep).pending = ep.pending.tail) := by
  cases i with
  | rxArrive b => exact .inr (.inl ⟨b, rfl, rfl⟩)
  | readData =>
    by_cases h : rxcSet s = true ∧ (rxAnswer s).isSome = true
    · exact .inr (.inr ⟨rfl, h.1, by simp [entryEffect, h, Endpoint.dropOldest]⟩)
    · exact .inl (by simp only [entryEffect, if_neg h, id])
  | writeData v => left; simp only [entryEffect]; split <;> rfl
  | readStatus | writeStatus | readControl | writeControl | poll | create | setInputEndpoint
  | setOutputEndpoint => exact .inl rfl

theorem exec_pending {i : Instr} {s t : State} (h : exec i s = .next t) {ref : Nat} {ep ep' : Endpoint}
    (hep : endpointAt s ref = some ep) (hep' : endpointAt t ref = some ep') :
    ep'.pending = ep.pending ∨
      (∃ b, i = .rxArrive b ∧ ref = s.inEP ∧ ep'.pending = ep.pending ++ [b]) ∨
      (i = .readData ∧ rxcSet s = true ∧ ref = s.inEP ∧ ep'.pending = ep.pending.tail) := by
  obtain ⟨-, rfl⟩ := exec_eq_next.1 h
  rw [effect_endpointAt] at hep'
  by_cases htouched : touchedEntry i s = ref
  · obtain rfl : entryEffect i s ep = ep' := by simpa [htouched, hep] using hep'
    obtain hp | ⟨b, rfl, hp⟩ | ⟨rfl, hr, hp⟩ := entryEffect_pending i s ep
    · exact .inl hp
    · exact .inr (.inl ⟨b, rfl, htouched.symm, hp⟩)
    · exact .inr (.inr ⟨rfl, hr, htouched.symm, hp⟩)
  · obtain rfl : ep = ep' := by simpa [htouched, hep] using hep'
    exact .inl rfl

theorem effect_txlog_cases {i : Instr} (hi : i ≠ .create) (s : State) :
    (∃ v, i = .writeData v ∧ (effect i s).txlog = s.txlog ++ [(s.outEP, v)]) ∨
      ((∀ v, i ≠ .writeData v) ∧ (effect i s).txlog = s.txlog) := by
  rw [effect_txlog hi]
  cases i with
  | writeData v => exact .inl ⟨v, rfl, rfl⟩
  | readStatus | writeStatus | readControl | writeControl | readData | poll | create | setInputEndpoint
  | setOutputEndpoint | rxArrive => exact .inr ⟨by simp, by simp [transmissions]⟩

/-- TXC falls only where a status write has its bit set (rule R35, I3). -/
theorem writeStatus_of_txc_falls {i : Instr} {s t : State} (hwf : s.cfg.WF) (hc : s.created = true)
    (h : exec i s = .next t) (hs : txcSet s = true) (ht : txcSet t = false) :
    ∃ v, i = .writeStatus v ∧ isset v (txcMask s.cfg) = true := by
  rw [exec_txc hwf hc h] at ht
  cases i <;> simp_all

/-- RXC rises only in a poll that finds input (rule R35, I2). -/
theorem poll_of_rxc_rises {i : Instr} {s t : State} (hwf : s.cfg.WF) (hc : s.created = true)
    (h : exec i s = .next t) (hs : rxcSet s = false) (ht : rxcSet t = true) : i = .poll ∧ rxAvail s = true := by
  rw [exec_rxc hwf hc h] at ht
  split at ht <;> simp_all

/-- RXC falls only in a `readData` (rule R35, I2). -/
theorem readData_of_rxc_falls {i : Instr} {s t : State} (hwf : s.cfg.WF) (hc : s.created = true)
    (h : exec i s = .next t) (hs : rxcSet s = true) (ht : rxcSet t = false) : i = .readData := by
  rw [exec_rxc hwf hc h] at ht
  split at ht <;> simp_all

/-- Settles O34, part by part of the state. -/
theorem onlyNamedOperationsChangeEachPart : Obligations.OnlyNamedOperationsChangeEachPart := by
  intro i s t hwf hc h
  have hi := ne_create_of_exec_next hc h
  obtain rfl : t = effect i s := (exec_eq_next.1 h).2
  refine ⟨isset_statusRead_dre _, poll_of_rxc_rises hwf hc h, readData_of_rxc_falls hwf hc h,
    writeStatus_of_txc_falls hwf hc h, effect_irqlog hi s, fun hne => ?control, fun hne => ?other,
    effect_txlog_cases hi s, fun ref ep ep' => exec_pending h, fun hne => ?input, fun hne => ?output⟩
  case control =>
    by_contra hw
    exact hne (effect_control hi (not_exists.1 hw) s)
  case other =>
    by_contra hw
    exact hne (effect_otherBits hi fun hv => by simpa [hv] using hw)
  case input =>
    obtain heq | ⟨e, rfl, -⟩ := effect_inEP_cases hi s
    · exact absurd heq hne
    · exact ⟨e, rfl⟩
  case output =>
    obtain heq | ⟨e, rfl, -⟩ := effect_outEP_cases hi s
    · exact absurd heq hne
    · exact ⟨e, rfl⟩

/-! ### What is read of the two registers (rules R22, R24, R26, R27) -/

/-- `s` with other bytes in the two registers. -/
def State.withRegisters (x c : Byte) (s : State) : State := { s with status := x, control := c }

theorem withRegisters_self (s : State) : s.withRegisters s.status s.control = s := rfl

theorem txWrite_withRegisters (b x c : Byte) (s : State) :
    txWrite b (s.withRegisters x c) = (txWrite b s).withRegisters x c := by
  have ha : txAccepted (s.withRegisters x c) = txAccepted s := rfl
  have hd : outputDraws (s.withRegisters x c) = outputDraws s := rfl
  unfold txWrite
  rw [ha, hd]
  cases txAccepted s <;> cases outputDraws s <;> rfl

theorem afterRxAvail_withRegisters (x c : Byte) (s : State) :
    afterRxAvail (s.withRegisters x c) = (afterRxAvail s).withRegisters x c :=
  (apply_ite (State.withRegisters x c) (boundToHostStream s = true) (spendDraw s) s).symm

theorem rebindInput_withRegisters (ref : Nat) (x c : Byte) (s : State) :
    rebindInput ref (s.withRegisters x c) = (rebindInput ref s).withRegisters x c :=
  (apply_ite (State.withRegisters x c) (inputSupported s ref = true) { s with inEP := ref }
    (raiseConfigurationError ref s)).symm

theorem afterRxRead_withRegisters (x c : Byte) (s : State) :
    afterRxRead (s.withRegisters x c) = (afterRxRead s).withRegisters x c := by
  have ha : rxAnswer (s.withRegisters x c) = rxAnswer s := rfl
  have hd : boundToHostStream (s.withRegisters x c) = boundToHostStream s := rfl
  unfold afterRxRead
  rw [ha, hd]
  cases rxAnswer s <;> cases boundToHostStream s <;> rfl

theorem consumeByte_withRegisters (x c : Byte) (s : State) :
    consumeByte (s.withRegisters x c) = (consumeByte s).withRegisters (clearBits x (rxcMask s.cfg)) c :=
  congrArg (answer ((rxAnswer s).getD 0x00#8))
    (afterRxRead_withRegisters (clearBits x (rxcMask s.cfg)) c { s with status := clearBits s.status (rxcMask s.cfg) })

theorem detectInput_withRegisters {x c : Byte} {s : State} (hx : isset x (rxcMask s.cfg) = rxcSet s)
    (hcie : isset c (rxcieMask s.cfg) = rxcieSet s) :
    detectInput (s.withRegisters x c) = (detectInput s).withRegisters (setBits x (rxcMask s.cfg)) c := by
  have hr : rxcSet (s.withRegisters x c) = rxcSet s := hx
  have he : rxcieSet (s.withRegisters x c) = rxcieSet s := hcie
  unfold detectInput
  rw [hr, he]
  split <;> rfl

/-- What an operation leaves in the status register where it found `x`, with RXC as in `s`. -/
def statusLeft (i : Instr) (s : State) (x : Byte) : Byte :=
  match i with
  | .writeStatus v => statusWritten s.cfg x v
  | .readData => if rxcSet s then clearBits x (rxcMask s.cfg) else x
  | .writeData _ => statusAfterTransmit s.cfg x
  | .poll => if rxAvail s then setBits x (rxcMask s.cfg) else x
  | .create => if inputSupported s standardInput then s.cfg.statusReset else x
  | .readStatus | .readControl | .writeControl _ | .setInputEndpoint _ | .setOutputEndpoint _ | .rxArrive _ => x

/-- What an operation leaves in the control register where it found `c`. -/
def controlLeft (i : Instr) (s : State) (c : Byte) : Byte :=
  match i with
  | .writeControl v => v
  | .create => if inputSupported s standardInput then s.cfg.controlReset else c
  | .readStatus | .writeStatus _ | .readControl | .readData | .writeData _ | .poll | .setInputEndpoint _
  | .setOutputEndpoint _ | .rxArrive _ => c

/-- With other bytes in the registers, the same RXC and RXCIE in them, and the same byte in the one `i` reads, `i` differs in nothing but the two bytes it leaves. -/
theorem effect_withRegisters {i : Instr} {s : State} {x c : Byte} (hx : isset x (rxcMask s.cfg) = rxcSet s)
    (hcie : isset c (rxcieMask s.cfg) = rxcieSet s) (hstatus : i = .readStatus → x = s.status)
    (hcontrol : i = .readControl → c = s.control) :
    effect i (s.withRegisters x c) = (effect i s).withRegisters (statusLeft i s x) (controlLeft i s c) := by
  have hr : rxcSet (s.withRegisters x c) = rxcSet s := hx
  have ha : rxAvail (s.withRegisters x c) = rxAvail s := rfl
  have hs : inputSupported (s.withRegisters x c) standardInput = inputSupported s standardInput := rfl
  have hrel : releaseOutputs (s.withRegisters x c) = (releaseOutputs s).withRegisters x c := rfl
  cases i with
  | readStatus => obtain rfl := hstatus rfl; rfl
  | readControl => obtain rfl := hcontrol rfl; rfl
  | readData =>
    simp only [effect, statusLeft, controlLeft, hr, hrel, consumeByte_withRegisters]
    split <;> rfl
  | writeData v =>
    simp only [effect, statusLeft, controlLeft, hrel, txWrite_withRegisters]
    rfl
  | poll =>
    simp only [effect, statusLeft, controlLeft, ha, hrel, afterRxAvail_withRegisters]
    split
    · rw [detectInput_withRegisters (by simpa using hx) (by simpa using hcie)]
      simp
    · rfl
  | create =>
    simp only [effect, statusLeft, controlLeft, hs]
    split <;> rfl
  | setInputEndpoint e => exact rebindInput_withRegisters e.toNat x c (releaseOutputs s)
  | writeStatus | writeControl | setOutputEndpoint | rxArrive => rfl

/-- What the two registers hold after an operation is what it leaves of the bytes it found. -/
theorem effect_registers (i : Instr) (s : State) :
    (effect i s).status = statusLeft i s s.status ∧ (effect i s).control = controlLeft i s s.control := by
  have h := effect_withRegisters (i := i) (s := s) rfl rfl (fun _ => rfl) fun _ => rfl
  rw [withRegisters_self] at h
  exact ⟨congrArg State.status h, congrArg State.control h⟩

/-- Nothing that stops an operation is in the two registers. -/
theorem stopOf_withRegisters (i : Instr) (s : State) (x c : Byte) : stopOf i (s.withRegisters x c) = stopOf i s := by
  cases i <;> rfl

/-- Two states in which the same stops an operation have the same outcome of it, up to a relation of the effects. -/
theorem exec_outcome_congr {i : Instr} {s s' : State} {P : State → State → Prop} (hstop : stopOf i s' = stopOf i s)
    (hP : P (effect i s) (effect i s')) :
    (∀ t, exec i s = .next t → ∃ u, exec i s' = .next u ∧ P t u) ∧
    (∀ f, exec i s = .fault f → exec i s' = .fault f) ∧
    (∀ r, exec i s = .refused r → exec i s' = .refused r) := by
  simp only [exec_eq_next, exec_eq_fault, exec_eq_refused, hstop]
  refine ⟨?_, fun _ => id, fun _ => id⟩
  rintro t ⟨hnone, rfl⟩
  exact ⟨_, ⟨hnone, rfl⟩, hP⟩

theorem controlLeft_cases (i : Instr) (s : State) (c c' : Byte) :
    controlLeft i s c = c ∨ controlLeft i s c = controlLeft i s c' := by
  cases i <;> simp only [controlLeft]
  case create => split <;> simp
  all_goals simp

/-- Settles O36: of the control byte only RXCIE is read, and the status byte left is the same. -/
theorem reservedControlBitsHaveNoEffect : Obligations.ReservedControlBitsHaveNoEffect := by
  intro i s c hi hcie
  have heff : effect i { s with control := c } =
      (effect i s).withRegisters (statusLeft i s s.status) (controlLeft i s c) :=
    effect_withRegisters rfl hcie (fun _ => rfl) fun h => absurd h hi
  obtain ⟨hstatus, hcontrol⟩ := effect_registers i s
  refine exec_outcome_congr
    (P := fun t u => u = { t with control := u.control } ∧ (u.control = c ∨ u.control = t.control))
    (stopOf_withRegisters i s s.status c) ?_
  rw [heff, ← hstatus, hcontrol]
  exact ⟨rfl, controlLeft_cases i s c s.control⟩

/-- What RXC is after an operation depends on the status byte through RXC only. -/
theorem isset_statusLeft_rxc (i : Instr) {s : State} {x : Byte} (hwf : s.cfg.WF)
    (hx : isset x (rxcMask s.cfg) = rxcSet s) :
    isset (statusLeft i s x) (rxcMask s.cfg) = isset (statusLeft i s s.status) (rxcMask s.cfg) := by
  have hx' : isset x (rxcMask s.cfg) = isset s.status (rxcMask s.cfg) := hx
  cases i <;> simp only [statusLeft]
  case writeStatus v =>
    rw [isset_statusWritten_rxc _ (txc_ne_rxc hwf), isset_statusWritten_rxc _ (txc_ne_rxc hwf), hx']
  case writeData =>
    exact (isset_statusAfterTransmit_other _ (txc_ne_rxc hwf) _).trans
      (hx'.trans (isset_statusAfterTransmit_other _ (txc_ne_rxc hwf) _).symm)
  case readData =>
    split
    · exact (isset_clearBits_self _ _).trans (isset_clearBits_self _ _).symm
    · exact hx'
  case poll =>
    split
    · exact (isset_setBits_self _ _).trans (isset_setBits_self _ _).symm
    · exact hx'
  case create =>
    split
    · rfl
    · exact hx'
  all_goals exact hx'

/-- Settles O37: of the status byte only RXC is read, and `readStatus` sees it with DRE forced. -/
theorem onlyReceiveCompleteOfStatusIsRead : Obligations.OnlyReceiveCompleteOfStatusIsRead := by
  intro i s x hwf hx
  refine ⟨fun hi => ?_, fun hdre t h => ?_⟩
  · have heff : effect i { s with status := x } =
        (effect i s).withRegisters (statusLeft i s x) (controlLeft i s s.control) :=
      effect_withRegisters hx rfl (fun h => absurd h hi) fun _ => rfl
    obtain ⟨hstatus, hcontrol⟩ := effect_registers i s
    refine exec_outcome_congr (P := fun t u => u = { t with status := u.status } ∧ rxcSet u = rxcSet t)
      (stopOf_withRegisters i s x s.control) ?_
    rw [heff, ← hcontrol]
    refine ⟨rfl, ?_⟩
    have hrxc := isset_statusLeft_rxc i hwf hx
    rw [← hstatus, ← effect_cfg i s] at hrxc
    exact hrxc
  · obtain ⟨hc, rfl⟩ := execReadStatus_eq_next.1 h
    refine execReadStatus_eq_next.2 ⟨hc, ?_⟩
    have hread : statusRead { s with status := x } = statusRead s := hdre
    rw [hread]
    rfl

/-! ### The two byte streams over a sequence of operations -/

theorem pendingInput_updateEndpoint (ref : Nat) {f : Endpoint → Endpoint} (s : State)
    (hf : ∀ ep, (f ep).pending = ep.pending) : pendingInput (updateEndpoint ref f s) = pendingInput s := by
  simp only [pendingInput, updateEndpoint_inEP, endpointAt_updateEndpoint]
  by_cases h : ref = s.inEP <;> cases endpointAt s s.inEP <;> simp [h, hf]

/-- Where an operation keeps the binding and the entry's pending bytes, it keeps the pending input. -/
theorem effect_pendingInput {i : Instr} {s : State} (hb : bindsInput i = false)
    (hf : ∀ ep, (entryEffect i s ep).pending = ep.pending) : pendingInput (effect i s) = pendingInput s :=
  (pendingInput_congr (s := updateEndpoint (touchedEntry i s) _ s) (effect_inEP hb s) (effect_endpoints i s)).trans
    (pendingInput_updateEndpoint _ s hf)

/-- Rule R74: `readData` takes what it answers from the front of the pending input. -/
theorem readData_pendingInput (s : State) :
    takenBy .readData s ++ pendingInput (effect .readData s) = pendingInput s := by
  cases hr : rxcSet s with
  | true =>
    have heff : effect .readData s = consumeByte (releaseOutputs s) := by simp [effect, hr]
    have hkeep : pendingInput (consumeByte (releaseOutputs s)) = pendingInput (afterRxRead s) :=
      pendingInput_congr (by simp) ((consumeByte_endpoints _).trans (afterRxRead_endpoints s).symm)
    simpa [takenBy, hr, heff, hkeep] using pendingInput_afterRxRead s
  | false =>
    have hf : ∀ ep, (entryEffect .readData s ep).pending = ep.pending := fun ep => by simp [entryEffect, hr]
    simpa [takenBy, hr] using effect_pendingInput (i := .readData) rfl hf

/-- Rule R67: an arrival joins the end of the pending input. -/
theorem rxArrive_pendingInput {b : Byte} {s t : State} (h : exec (.rxArrive b) s = .next t) :
    pendingInput t = pendingInput s ++ [b] := by
  obtain ⟨ep, hep, -, rfl⟩ := arriveAt_eq_next.1 h
  have hep' := endpointAt_updateEndpoint_of_some hep (Endpoint.append b)
  have hin : endpointAt s s.inEP = some ep := hep
  simp only [pendingInput, updateEndpoint_inEP, releaseOutputs_inEP, hep', hin]
  rfl

/-- One operation conserves the input bytes (rules R30, R74). -/
theorem exec_conserves_input {i : Instr} {s t : State} (hb : bindsInput i = false) (h : exec i s = .next t) :
    takenBy i s ++ pendingInput t = pendingInput s ++ arrivals [i] := by
  cases i with
  | create | setInputEndpoint => simp [bindsInput] at hb
  | readData =>
    obtain ⟨-, rfl⟩ := exec_eq_next.1 h
    simpa [arrivals] using readData_pendingInput s
  | rxArrive b => simpa [takenBy, arrivals] using rxArrive_pendingInput h
  | writeData v =>
    obtain ⟨-, rfl⟩ := exec_eq_next.1 h
    have hf : ∀ ep, (entryEffect (.writeData v) s ep).pending = ep.pending := fun ep => by
      simp only [entryEffect]; split <;> rfl
    simpa [takenBy, arrivals] using effect_pendingInput rfl hf
  | readStatus | writeStatus | readControl | writeControl | poll | setOutputEndpoint =>
    obtain ⟨-, rfl⟩ := exec_eq_next.1 h
    simpa [takenBy, arrivals] using effect_pendingInput hb fun _ => rfl

/-- A sequence's arrivals are those of its first operation and then of the rest. -/
theorem arrivals_cons (i : Instr) (ops : List Instr) : arrivals (i :: ops) = arrivals [i] ++ arrivals ops := by
  cases i <;> rfl

theorem transmissions_cons (i : Instr) (ops : List Instr) :
    transmissions (i :: ops) = transmissions [i] ++ transmissions ops := by
  cases i <;> rfl

theorem takenByAll_cons {i : Instr} {s t : State} (h : exec i s = .next t) (ops : List Instr) :
    takenByAll (i :: ops) s = takenBy i s ++ takenByAll ops t := by
  simp [takenByAll, h]

/-- Settles O45, by induction on the operations. -/
theorem noInputByteIsLostOrDuplicated : Obligations.NoInputByteIsLostOrDuplicated := by
  intro ops
  induction ops with
  | nil =>
    rintro s t - h
    obtain rfl : s = t := Option.some.inj h
    simp [takenByAll, arrivals]
  | cons i ops ih =>
    intro s t hb h
    obtain ⟨hbi, hbops⟩ := List.forall_mem_cons.1 hb
    obtain ⟨u, hu, hrest⟩ := execAll_cons h
    calc takenByAll (i :: ops) s ++ pendingInput t
        = takenBy i s ++ (takenByAll ops u ++ pendingInput t) := by rw [takenByAll_cons hu, List.append_assoc]
      _ = (takenBy i s ++ pendingInput u) ++ arrivals ops := by rw [ih u t hbops hrest, List.append_assoc]
      _ = pendingInput s ++ arrivals (i :: ops) := by
        rw [exec_conserves_input hbi hu, arrivals_cons i ops, List.append_assoc]

theorem entryEffect_received {i : Instr} (hw : ∀ v, i ≠ .writeData v) (s : State) (ep : Endpoint) :
    (entryEffect i s ep).received = ep.received := by
  cases i with
  | writeData v => exact absurd rfl (hw v)
  | readData => simp only [entryEffect]; split <;> rfl
  | readStatus | writeStatus | readControl | writeControl | poll | create | setInputEndpoint
  | setOutputEndpoint | rxArrive => rfl

/-- What the bound canonical output receives of one operation (rules R31, R32, R75). -/
theorem effect_received (i : Instr) {s : State} {ep : Endpoint} (hep : endpointAt s s.outEP = some ep)
    (hk : ep.outputKind = .canonical) :
    ∃ ep', endpointAt (effect i s) s.outEP = some ep' ∧ ep'.outputKind = .canonical ∧
      ep'.received = ep.received ++ transmissions [i] := by
  rw [effect_endpointAt, hep]
  by_cases hw : ∃ v, i = .writeData v
  · obtain ⟨v, rfl⟩ := hw
    have hacc : txAccepted s = true := by simp [txAccepted, hep, hk]
    exact ⟨ep.receive v, by simp [touchedEntry, entryEffect, hacc], hk, rfl⟩
  · rw [transmissions_of_ne_writeData (not_exists.1 hw), List.append_nil]
    split
    · exact ⟨entryEffect i s ep, rfl, (entryEffect_outputKind i s ep).trans hk,
        entryEffect_received (not_exists.1 hw) s ep⟩
    · exact ⟨ep, rfl, hk, rfl⟩

/-- Settles O44, by induction on the operations, for every endpoint bound. -/
theorem transmittedBytesArriveInOrder : Obligations.TransmittedBytesArriveInOrder := by
  intro ops
  induction ops with
  | nil =>
    rintro s t ep - hep - - h
    obtain rfl : s = t := Option.some.inj h
    exact ⟨⟨ep, hep, by simp [transmissions]⟩, by simp [transmissions]⟩
  | cons i ops ih =>
    intro s t ep hc hep hk hb h
    obtain ⟨hbi, hbops⟩ := List.forall_mem_cons.1 hb
    obtain ⟨u, hu, hrest⟩ := execAll_cons h
    have hcu : u.created = true := (exec_created hc hu).1
    have hi := ne_create_of_exec_next hc hu
    obtain ⟨-, rfl⟩ := exec_eq_next.1 hu
    have hout := effect_outEP hbi s
    obtain ⟨ep₁, hep₁, hk₁, hrec₁⟩ := effect_received i hep hk
    obtain ⟨⟨ep', hep', hrec⟩, hlog⟩ := ih _ t ep₁ hcu (hout ▸ hep₁) hk₁ hbops hrest
    rw [hout] at hep' hlog
    rw [transmissions_cons i ops]
    refine ⟨⟨ep', hep', ?_⟩, ?_⟩
    · rw [hrec, hrec₁, List.append_assoc]
    · rw [hlog, effect_txlog hi, List.map_append, List.append_assoc]

end Sys2Proof.Machine

/-! Proofs of the memory family: what a stimulus stands for and its step; the registers' loads and stores; accesses that reach no register; the strobes; repeated writes; and the detection of a pending byte. -/

namespace Sys2Proof.Machine

/-! ### The step of a stimulus -/

theorem step_of_stimulus {s : State} {stim : Stimulus} {rest : List Stimulus} (h : s.stimuli = stim :: rest) :
    step s = perform (resolve s stim) { s with stimuli := rest } := by
  simp [step, h]

theorem resolveWord_of_decode {s : State} {w : StimulusWord} {i : Instr}
    (h : decode s.endpoints.length w = .ok i) : resolveWord s w = .operation i := by
  simp [resolveWord, h]

/-- Settles O6: the word resolves to the operation, and the step performs it. -/
theorem stepPerformsDecodedWord : Obligations.StepPerformsDecodedWord := by
  intro s w rest i hs hd
  have hresolve : resolve s (.word w) = .operation i := resolveWord_of_decode hd
  rw [step_of_stimulus hs, hresolve]
  rfl

/-! ### The operations of the bus master (rules R43, R44, R76) -/

theorem stopOf_of_busMaster {i : Instr} {s : State} (hi : i.agent = .busMaster) (hc : s.created = true) :
    stopOf i s = none := by
  cases i with
  | readStatus | writeStatus | readControl | writeControl | readData | writeData => simp [stopOf, hc]
  | poll | create | setInputEndpoint | setOutputEndpoint | rxArrive => cases hi

theorem exec_of_busMaster {i : Instr} {s : State} (hi : i.agent = .busMaster) (hc : s.created = true) :
    exec i s = .next (effect i s) :=
  exec_eq_next.2 ⟨stopOf_of_busMaster hi hc, rfl⟩

theorem effect_raised_of_busMaster {i : Instr} (hi : i.agent = .busMaster) (s : State) :
    (effect i s).out.raised = none := by
  cases i with
  | readData => simp only [effect]; split <;> simp
  | readStatus | writeStatus | readControl | writeControl | writeData => simp [effect]
  | poll | create | setInputEndpoint | setOutputEndpoint | rxArrive => cases hi

@[simp] theorem agent_readOf (r : Register) : (readOf r).agent = .busMaster := by cases r <;> rfl
@[simp] theorem agent_writeOf (v : Byte) (r : Register) : (writeOf v r).agent = .busMaster := by cases r <;> rfl

theorem effect_readOf_rdata (r : Register) (s : State) : ∃ b, (effect (readOf r) s).out.rdata = some b := by
  cases r with
  | status => exact ⟨statusRead s, rfl⟩
  | control => exact ⟨s.control, rfl⟩
  | data => simp only [readOf, effect]; split <;> simp

/-- A read that fails hands back 0x00 (rule R74). -/
theorem effect_readData_rdata_of_failed {s : State} (hr : rxcSet s = true) (ha : rxAnswer s = none) :
    (effect .readData s).out.rdata = some 0x00#8 := by
  simp [effect, hr, ha]

theorem effect_writeOf_rdata (v : Byte) (r : Register) (s : State) :
    (effect (writeOf v r) s).out.rdata = none := by
  cases r <;> simp [writeOf, effect]

/-! ### The three addresses -/

theorem eq_addressOf_iff {c : Config} {a : Nat} :
    (∃ r, a = addressOf c r) ↔ a = c.addrStatus ∨ a = c.addrControl ∨ a = c.addrData := by
  constructor
  · rintro ⟨_ | _ | _, h⟩
    exacts [.inl h, .inr (.inl h), .inr (.inr h)]
  · rintro (h | h | h)
    exacts [⟨.status, h⟩, ⟨.control, h⟩, ⟨.data, h⟩]

/-- Different registers have different addresses: the dispatch table tells them apart (rule R7). -/
theorem addressOf_inj {s : State} (hI : s.Inv) (hc : s.created = true) {r r' : Register}
    (h : addressOf s.cfg r = addressOf s.cfg r') : r = r' := by
  have hr := handlerAt_addressOf hI hc r
  rw [h, handlerAt_addressOf hI hc r'] at hr
  exact (Option.some.inj hr).symm

theorem step_of_registerLoad {s : State} {rest : List Stimulus} (hI : s.Inv) (hc : s.created = true) (r : Register)
    (h : s.stimuli = .event (.busRead (addressOf s.cfg r) 1) :: rest) :
    step s = exec (readOf r) { s with stimuli := rest } := by
  rw [step_of_stimulus h, resolve_registerLoad hI hc]
  rfl

theorem step_of_registerStore {s : State} {rest : List Stimulus} (hI : s.Inv) (hc : s.created = true) (r : Register)
    {v : Byte} (h : s.stimuli = .event (.busWrite (addressOf s.cfg r) [v]) :: rest) :
    step s = exec (writeOf v r) { s with stimuli := rest } := by
  rw [step_of_stimulus h, resolve_registerStore hI hc]
  rfl

/-- Settles O8, by the register whose address is loaded. -/
theorem byteLoadPerformsRegisterRead : Obligations.ByteLoadPerformsRegisterRead := by
  rintro s s' rest addr hI hc hs rfl
  have hstep (r : Register) (ha : addr = addressOf s.cfg r) := step_of_registerLoad hI hc r (ha ▸ hs)
  refine ⟨hstep .status, hstep .control, hstep .data, fun haddr => ?_⟩
  obtain ⟨r, ha⟩ := eq_addressOf_iff.2 haddr
  have hnext := (hstep r ha).trans (exec_of_busMaster (agent_readOf r) hc)
  obtain ⟨b, hb⟩ := effect_readOf_rdata r { s with stimuli := rest }
  refine ⟨_, b, hnext, hb, effect_raised_of_busMaster (agent_readOf r) _, fun hdata hrxc hfail => ?_⟩
  obtain rfl : r = .data := addressOf_inj hI hc (ha.symm.trans hdata)
  exact Option.some.inj (hb.symm.trans (effect_readData_rdata_of_failed hrxc hfail))

/-- Settles O9, by the register whose address is stored to. -/
theorem byteStorePerformsRegisterWrite : Obligations.ByteStorePerformsRegisterWrite := by
  rintro s s' rest addr v hI hc hs rfl
  have hstep (r : Register) (ha : addr = addressOf s.cfg r) := step_of_registerStore hI hc r (ha ▸ hs)
  refine ⟨hstep .status, hstep .control, hstep .data, fun haddr => ?_⟩
  obtain ⟨r, ha⟩ := eq_addressOf_iff.2 haddr
  exact ⟨_, (hstep r ha).trans (exec_of_busMaster (agent_writeOf v r) hc), effect_writeOf_rdata v r _,
    effect_raised_of_busMaster (agent_writeOf v r) _⟩

/-! ### Accesses and fetches that reach no register -/

theorem coversRegister_iff {c : Config} {addr n : Nat} :
    coversRegister c addr n = true ↔
      ∃ a, (a = c.addrStatus ∨ a = c.addrControl ∨ a = c.addrData) ∧ addr ≤ a ∧ a < addr + n := by
  simp [coversRegister, addressMap]

theorem handlerAt_eq_none {s : State} (hI : s.Inv) {addr : Nat}
    (h : ∀ a, a = s.cfg.addrStatus ∨ a = s.cfg.addrControl ∨ a = s.cfg.addrData → addr ≠ a) :
    handlerAt s addr = none := by
  obtain ⟨-, -, hcol, hnot, -, -, -⟩ := hI
  cases hc : s.created with
  | false =>
    obtain ⟨hh, -, -, -⟩ := hnot hc
    simp [handlerAt, hh]
  | true =>
    obtain ⟨hh, -⟩ := hcol hc
    simp [handlerAt, hh, addressMap, List.lookup_eq_none_iff, h]

theorem resolveAccess_of_foreign {s : State} {addr n : Nat} (f : Register → Resolution) (hI : s.Inv)
    (hin : inAddressSpace s.cfg addr n = true) (hno : coversRegister s.cfg addr n = false) :
    resolveAccess s addr n f = .notThisBlock := by
  by_cases h1 : n = 1
  · subst h1
    have hnone : handlerAt s addr = none := by
      refine handlerAt_eq_none hI fun a ha hne => ?_
      have hcov : coversRegister s.cfg addr 1 = true := coversRegister_iff.2 ⟨a, ha, by omega, by omega⟩
      simp [hcov] at hno
    simp [resolveAccess, hin, hnone]
  · simp [resolveAccess, hin, h1, hno]

theorem resolveAccess_of_wide {s : State} {addr n : Nat} (f : Register → Resolution)
    (hin : inAddressSpace s.cfg addr n = true) (h1 : n ≠ 1) (hcov : coversRegister s.cfg addr n = true) :
    resolveAccess s addr n f = .refuse (.wideAccess addr n) := by
  simp [resolveAccess, hin, h1, hcov]

theorem resolveAccess_of_outside {s : State} {addr n : Nat} (f : Register → Resolution)
    (hout : inAddressSpace s.cfg addr n = false) : resolveAccess s addr n f = .stop (.addressOutsideSpace addr) := by
  simp [resolveAccess, hout]

theorem resolveFetch_of_foreign {s : State} {addr n : Nat} (hin : inAddressSpace s.cfg addr n = true)
    (hno : coversRegister s.cfg addr n = false) : resolveFetch s addr n = .notThisBlock := by
  simp [resolveFetch, hin, hno]

theorem resolveFetch_of_covering {s : State} {addr n : Nat} (hin : inAddressSpace s.cfg addr n = true)
    (hcov : coversRegister s.cfg addr n = true) : resolveFetch s addr n = .refuse (.fetchFromRegister addr) := by
  simp [resolveFetch, hin, hcov]

theorem resolveFetch_of_outside {s : State} {addr n : Nat} (hout : inAddressSpace s.cfg addr n = false) :
    resolveFetch s addr n = .stop (.addressOutsideSpace addr) := by
  simp [resolveFetch, hout]

theorem step_of_notThisBlock {s : State} {stim : Stimulus} {rest : List Stimulus} (h : s.stimuli = stim :: rest)
    (hr : resolve s stim = .notThisBlock) : step s = .next { s with stimuli := rest, out := Outputs.idle } := by
  rw [step_of_stimulus h, hr]
  rfl

theorem step_of_refuse {s : State} {stim : Stimulus} {rest : List Stimulus} {why : Refusal}
    (h : s.stimuli = stim :: rest) (hr : resolve s stim = .refuse why) : step s = .refused why := by
  rw [step_of_stimulus h, hr]
  rfl

theorem step_of_stop {s : State} {stim : Stimulus} {rest : List Stimulus} {why : Fault}
    (h : s.stimuli = stim :: rest) (hr : resolve s stim = .stop why) : step s = .fault why := by
  rw [step_of_stimulus h, hr]
  rfl

/-- Settles O10, by the kind of access. -/
theorem accessElsewhereIsNotThisBlock : Obligations.AccessElsewhereIsNotThisBlock := by
  intro s rest ev addr n hI hs hev hspace hfree
  have hin : inAddressSpace s.cfg addr n = true := decide_eq_true hspace
  have hno : coversRegister s.cfg addr n = false := by
    rw [← Bool.not_eq_true, coversRegister_iff]
    rintro ⟨a, ha, hcov⟩
    exact hfree a ha hcov
  apply step_of_notThisBlock hs
  obtain rfl | ⟨bytes, rfl, rfl⟩ | rfl := hev
  · exact resolveAccess_of_foreign _ hI hin hno
  · exact resolveAccess_of_foreign _ hI hin hno
  · exact resolveFetch_of_foreign hin hno

/-- Settles O11: inside the address space by the register covered, and beyond it whatever is covered. -/
theorem wideAccessesAndFetchesAreRefused : Obligations.WideAccessesAndFetchesAreRefused := by
  intro s rest addr n
  constructor
  · intro a ha hle hlt hspace
    have hin : inAddressSpace s.cfg addr n = true := decide_eq_true hspace
    have hcov : coversRegister s.cfg addr n = true := coversRegister_iff.2 ⟨a, ha, hle, hlt⟩
    refine ⟨fun h1 hs => ?load, ?store, fun hs => ?fetch⟩
    case load => exact step_of_refuse hs (resolveAccess_of_wide _ hin h1 hcov)
    case store =>
      rintro bytes rfl h1 hs
      exact step_of_refuse hs (resolveAccess_of_wide _ hin h1 hcov)
    case fetch => exact step_of_refuse hs (resolveFetch_of_covering hin hcov)
  · intro hbeyond
    have hout : inAddressSpace s.cfg addr n = false := decide_eq_false hbeyond.not_ge
    refine ⟨fun hs => ?load, ?store, fun hs => ?fetch⟩
    case load => exact step_of_stop hs (resolveAccess_of_outside _ hout)
    case store =>
      rintro bytes rfl hs
      exact step_of_stop hs (resolveAccess_of_outside _ hout)
    case fetch => exact step_of_stop hs (resolveFetch_of_outside hout)

/-! ### The strobes (rules R48, R68) -/

/-- What a stimulus stands for does not depend on the stimuli still to come. -/
theorem resolve_withStimuli (s : State) (later : List Stimulus) (stim : Stimulus) :
    resolve { s with stimuli := later } stim = resolve s stim := rfl

theorem mem_activeEvents {p : Strobes} {ev : Event} :
    ev ∈ activeEvents p ↔
      (p.busRd = true ∧ ev = .busRead p.busAddr 1) ∨ (p.busWr = true ∧ ev = .busWrite p.busAddr [p.busWdata]) ∨
      (p.tick = true ∧ ev = .tick) ∨ (p.create = true ∧ ev = .create) ∨
      (∃ e, p.setIn = some e ∧ ev = .setIn e) ∨ (∃ e, p.setOut = some e ∧ ev = .setOut e) := by
  cases hi : p.setIn <;> cases ho : p.setOut <;> simp [activeEvents, hi, ho]

theorem length_activeEvents (p : Strobes) :
    (activeEvents p).length =
      p.busRd.toNat + p.busWr.toNat + p.tick.toNat + p.create.toNat + p.setIn.isSome.toNat + p.setOut.isSome.toNat := by
  have hbit (b : Bool) (ev : Event) : (if b = true then [ev] else []).length = b.toNat := by cases b <;> rfl
  cases hi : p.setIn <;> cases ho : p.setOut <;> simp [activeEvents, hi, ho, hbit, Nat.add_assoc]

theorem resolveStrobes_of_none {s : State} {p : Strobes} (h : activeEvents p = []) :
    resolveStrobes s p = .notThisBlock := by
  simp [resolveStrobes, h]

theorem resolveStrobes_of_one {s : State} {p : Strobes} {ev : Event} (h : activeEvents p = [ev]) :
    resolveStrobes s p = resolveEvent s ev := by
  simp [resolveStrobes, h]

theorem resolveStrobes_of_more {s : State} {p : Strobes} (h : 2 ≤ (activeEvents p).length) :
    resolveStrobes s p = .refuse .concurrentStrobes := by
  unfold resolveStrobes
  split
  next hnone => simp [hnone] at h
  next hone => simp [hone] at h
  next => rfl

/-- A sample with one active event has the step of that event. -/
theorem step_of_one_strobe {s : State} {p : Strobes} {rest : List Stimulus} {ev : Event}
    (hs : s.stimuli = .strobes p :: rest) (hev : activeEvents p = [ev]) :
    step s = step { s with stimuli := .event ev :: rest } := by
  have hresolve : resolve s (.strobes p) = resolve { s with stimuli := .event ev :: rest } (.event ev) :=
    resolveStrobes_of_one hev
  rw [step_of_stimulus hs, step_of_stimulus rfl, hresolve]

/-- Settles O14: the events of a sample, each strobe alone, and the step by the number of active events. -/
theorem strobesPerformAtMostOneOperation : Obligations.StrobesPerformAtMostOneOperation := by
  refine ⟨fun p => ⟨fun ev => mem_activeEvents, length_activeEvents p⟩, ?single,
    fun s rest p hs => ⟨fun ev hev => step_of_one_strobe hs hev, fun hnone => ?none, fun htwo => ?more⟩⟩
  case single =>
    rintro a v e p rfl
    exact ⟨rfl, rfl, rfl, rfl, rfl, rfl, rfl⟩
  case none => exact step_of_notThisBlock hs (resolveStrobes_of_none hnone)
  case more => exact step_of_refuse hs (resolveStrobes_of_more htwo)

/-! ### Repeated writes (rule R46) -/

theorem effect_writeStatus_idem (v : Byte) (s : State) :
    effect (.writeStatus v) (effect (.writeStatus v) s) = effect (.writeStatus v) s := by
  simp only [effect, releaseOutputs, statusWritten_idem]

theorem effect_writeControl_idem (v : Byte) (s : State) :
    effect (.writeControl v) (effect (.writeControl v) s) = effect (.writeControl v) s := rfl

theorem exec_twice_of_idem {i : Instr} {s : State} (hi : i.agent = .busMaster) (hc : s.created = true)
    (hidem : effect i (effect i s) = effect i s) : ∃ t, exec i s = .next t ∧ exec i t = .next t := by
  have hfirst := exec_of_busMaster hi hc
  have hsecond := exec_of_busMaster hi (exec_created hc hfirst).1
  exact ⟨_, hfirst, hsecond.trans (congrArg _ hidem)⟩

/-- Settles O35: the effects of the two idempotent writes repeat, and each `writeData` adds its own entry to the log. -/
theorem writesAreIdempotentExceptData : Obligations.WritesAreIdempotentExceptData := by
  intro s v _ hc
  refine ⟨exec_twice_of_idem rfl hc (effect_writeStatus_idem v s),
    exec_twice_of_idem rfl hc (effect_writeControl_idem v s), ?_⟩
  have hfirst : exec (.writeData v) s = .next (effect (.writeData v) s) := exec_of_busMaster rfl hc
  have hsecond := exec_of_busMaster (i := .writeData v) rfl (exec_created hc hfirst).1
  refine ⟨_, _, hfirst, hsecond, ?_⟩
  have hout : (effect (.writeData v) s).outEP = s.outEP := effect_outEP rfl s
  simp [effect_txlog, hout, transmissions]

/-! ### A pending byte waits for the poll (rules R52, R126, R135) -/

/-- The entry `ref` is a canonical input with a byte pending. -/
def CanonicalPending (ref : Nat) (s : State) : Prop :=
  ∃ ep, endpointAt s ref = some ep ∧ ep.inputKind = .canonical ∧ ep.pending ≠ []

theorem canonicalPending_congr {s t : State} (h : t.endpoints = s.endpoints) (ref : Nat) :
    CanonicalPending ref t ↔ CanonicalPending ref s := by
  simp [CanonicalPending, endpointAt_congr h]

theorem updateEndpoint_canonicalPending {ref : Nat} {s : State} (h : CanonicalPending ref s) (ref' : Nat)
    {f : Endpoint → Endpoint} (hkind : ∀ ep, (f ep).inputKind = ep.inputKind)
    (hpending : ∀ ep, ep.pending ≠ [] → (f ep).pending ≠ []) : CanonicalPending ref (updateEndpoint ref' f s) := by
  obtain ⟨ep, hep, hk, hp⟩ := h
  by_cases hr : ref = ref'
  · subst hr
    exact ⟨f ep, endpointAt_updateEndpoint_of_some hep f, (hkind ep).trans hk, hpending ep hp⟩
  · exact ⟨ep, (endpointAt_updateEndpoint_of_ne hr f s).trans hep, hk, hp⟩

theorem append_pending_ne_nil (b : Byte) (ep : Endpoint) : (ep.append b).pending ≠ [] := by
  simp [Endpoint.append]

/-- Only a `readData` that finds RXC set takes a byte (rule R74). -/
theorem exec_canonicalPending {ref : Nat} {i : Instr} {s t : State} (h : CanonicalPending ref s)
    (hrxc : rxcSet s = false) (hexec : exec i s = .next t) : CanonicalPending ref t := by
  obtain ⟨-, rfl⟩ := exec_eq_next.1 hexec
  refine (canonicalPending_congr (effect_endpoints i s) ref).2
    (updateEndpoint_canonicalPending h _ (entryEffect_inputKind i s) fun ep hp => ?_)
  obtain heq | ⟨b, -, heq⟩ | ⟨-, hset, -⟩ := entryEffect_pending i s ep
  · rwa [heq]
  · simp [heq]
  · simp [hrxc] at hset

/-- Only a host stream loses a byte of its own (rules R32, R131). -/
theorem drainAt_canonicalPending {ref ref' : Nat} {s t : State} (h : CanonicalPending ref s)
    (hdrain : drainAt ref' s = .next t) : CanonicalPending ref t := by
  obtain ⟨ep, hep, hk, hp⟩ := h
  obtain ⟨ep', hep', hhost, -, rfl⟩ := drainAt_eq_next.1 hdrain
  have hne : ref ≠ ref' := by
    rintro rfl
    obtain rfl : ep = ep' := Option.some.inj (hep.symm.trans hep')
    simp [hk, isHostStream] at hhost
  exact ⟨ep, (endpointAt_updateEndpoint_of_ne hne _ s).trans hep, hk, hp⟩

/-- The fresh source of `bind input` joins the table behind every entry there is (rule R67). -/
theorem bindFreshInput_canonicalPending {ref : Nat} {bytes : List Byte} {s t : State} (h : CanonicalPending ref s)
    (hbind : bindFreshInput bytes s = .next t) : CanonicalPending ref t := by
  obtain ⟨ep, hep, hk, hp⟩ := h
  obtain ⟨-, rfl⟩ := bindFreshInput_eq_next.1 hbind
  exact ⟨ep, (List.getElem?_append_left (List.getElem?_eq_some_iff.1 hep).1).trans hep, hk, hp⟩

/-- While RXC is clear no step takes the last pending byte of a canonical input. -/
theorem step_canonicalPending {ref : Nat} {s t : State} (h : CanonicalPending ref s) (hrxc : rxcSet s = false)
    (hstep : step s = .next t) : CanonicalPending ref t := by
  obtain ⟨rest, u, rfl, rfl | ⟨i, hexec⟩ | ⟨bytes, hbind⟩ | ⟨ref', b, harrive⟩ | ⟨ref', hdrain⟩⟩ :=
    step_next_cases hstep
  · exact h
  · exact exec_canonicalPending (s := { s with stimuli := rest }) h hrxc hexec
  · exact bindFreshInput_canonicalPending (s := releaseOutputs { s with stimuli := rest }) h hbind
  · obtain ⟨-, -, -, rfl⟩ := arriveAt_eq_next.1 harrive
    exact updateEndpoint_canonicalPending (s := releaseOutputs { s with stimuli := rest }) h ref' (fun _ => rfl)
      fun ep _ => append_pending_ne_nil b ep
  · exact drainAt_canonicalPending (s := releaseOutputs { s with stimuli := rest }) h hdrain

/-- A created block with admissible parameters, whose table holds a pending byte at the canonical input `ref`. -/
def AwaitsPoll (ref : Nat) (s : State) : Prop :=
  s.cfg.WF ∧ s.created = true ∧ CanonicalPending ref s

theorem step_awaitsPoll {ref : Nat} {s t : State} (h : AwaitsPoll ref s) (hrxc : rxcSet s = false)
    (hstep : step s = .next t) : AwaitsPoll ref t := by
  obtain ⟨hwf, hc, hp⟩ := h
  exact ⟨step_cfg hstep ▸ hwf, createdIsNeverCleared s t hstep hc, step_canonicalPending hp hrxc hstep⟩

/-- In a run the byte waits from `n` on for as long as RXC stays clear. -/
theorem run_awaitsPoll {feed : Nat → Stimulus} {run : Nat → State} {ref n m : Nat} (hrun : InfiniteRun feed run)
    (h : AwaitsPoll ref (run n)) (hclear : ∀ k, n ≤ k → rxcSet (run k) = false) (hm : n ≤ m) :
    AwaitsPoll ref (run m) := by
  induction m, hm using Nat.le_induction with
  | base => exact h
  | succ k hk ih => exact step_awaitsPoll (s := { run k with stimuli := [feed k] }) ih (hclear k hk) (hrun k)

theorem poll_detects {s t : State} (h : AwaitsPoll s.inEP s) (hpoll : exec .poll s = .next t) : rxcSet t = true := by
  obtain ⟨hwf, hc, ep, hep, hk, hp⟩ := h
  have havail : rxAvail s = true := by simpa [rxAvail_canonical hep hk] using hp
  simp [exec_rxc hwf hc hpoll, havail]

/-- Settles O50, by contradiction: while RXC is clear the byte waits, and the next poll detects it. -/
theorem pendingByteIsEventuallyDetected : Obligations.PendingByteIsEventuallyDetected := by
  intro feed run n ep hrun hfair hwf hc hep hk hp hbound
  by_contra hnever
  have hclear : ∀ m, n ≤ m → rxcSet (run m) = false := fun m hm =>
    Bool.eq_false_iff.2 fun hset => hnever ⟨m, hm, hset⟩
  obtain ⟨m, hm, hresolve⟩ := hfair n
  have hawait := run_awaitsPoll hrun ⟨hwf, hc, ep, hep, hk, hp⟩ hclear hm
  have hpoll : exec .poll { run m with stimuli := [] } = .next (run (m + 1)) := by
    have hstep := hrun m
    rwa [step_of_stimulus rfl, resolve_withStimuli, hresolve] at hstep
  have hset : rxcSet (run (m + 1)) = true :=
    poll_detects (s := { run m with stimuli := [] }) (hbound m hm ▸ hawait) hpoll
  simp [hclear (m + 1) (by omega)] at hset

end Sys2Proof.Machine

/-! Proofs of the encoding family: the decoder and the encoder are inverse to each other; the rows of the opcode map and its reserved words; what the bus master can reach; the tick, the arrival, the script's input, and indices beyond the table. -/

namespace Sys2Proof

/-! ### The decoder, kind by kind (rule R62) -/

@[simp] theorem decode_assemble_read (n : Nat) (sel : BitVec 2) (data : BitVec 8) :
    decode n (assemble 0b00#2 sel data) = decodeRead sel data := by
  simp [decode]

@[simp] theorem decode_assemble_write (n : Nat) (sel : BitVec 2) (data : BitVec 8) :
    decode n (assemble 0b01#2 sel data) = decodeWrite sel data := by
  simp [decode]

@[simp] theorem decode_assemble_tick (n : Nat) (sel : BitVec 2) (data : BitVec 8) :
    decode n (assemble 0b10#2 sel data) = decodeTick sel data := by
  simp [decode]

@[simp] theorem decode_assemble_host (n : Nat) (sel : BitVec 2) (data : BitVec 8) :
    decode n (assemble 0b11#2 sel data) = decodeHost n sel data := by
  simp [decode]

/-- Settles O1, by the kind of the operation's word: the fields the encoder assembles are those the decoder reads. -/
theorem encodedOperationDecodesBack : Obligations.EncodedOperationDecodesBack := by
  intro n i hwf
  cases i with
  | readStatus | readControl | readData =>
    simp only [encode, decode_assemble_read]
    rfl
  | writeStatus | writeControl | writeData =>
    simp only [encode, decode_assemble_write]
    rfl
  | poll =>
    simp only [encode, decode_assemble_tick]
    rfl
  | create | rxArrive =>
    simp only [encode, decode_assemble_host]
    rfl
  | setInputEndpoint e | setOutputEndpoint e =>
    have hlt : e.toNat < n := of_decide_eq_true hwf
    simp [encode, decodeHost, hlt]

/-! ### What each kind of word decodes to -/

/-- The field `sel` of a register: the inverse of `selectRegister` (rule R62). -/
theorem selectRegister_eq_some {sel : BitVec 2} {r : Register} (h : selectRegister sel = some r) :
    (sel = 0b00#2 ∧ r = .status) ∨ (sel = 0b01#2 ∧ r = .control) ∨ (sel = 0b10#2 ∧ r = .data) := by
  unfold selectRegister at h
  split_ifs at h with h0 h1 h2 <;> cases h
  · exact .inl ⟨h0, rfl⟩
  · exact .inr (.inl ⟨h1, rfl⟩)
  · exact .inr (.inr ⟨h2, rfl⟩)

theorem decodeRead_eq_ok {sel : BitVec 2} {data : BitVec 8} {i : Instr} (h : decodeRead sel data = .ok i) (n : Nat) :
    encode i = assemble 0b00#2 sel data ∧ WellFormed n i := by
  unfold decodeRead at h
  split at h
  · cases h
  · rename_i r hsel
    split_ifs at h with hdata
    cases h
    obtain ⟨rfl, rfl⟩ | ⟨rfl, rfl⟩ | ⟨rfl, rfl⟩ := selectRegister_eq_some hsel <;> cases hdata <;> exact ⟨rfl, rfl⟩

theorem decodeWrite_eq_ok {sel : BitVec 2} {data : BitVec 8} {i : Instr} (h : decodeWrite sel data = .ok i) (n : Nat) :
    encode i = assemble 0b01#2 sel data ∧ WellFormed n i := by
  unfold decodeWrite at h
  split at h
  · cases h
  · rename_i r hsel
    cases h
    obtain ⟨rfl, rfl⟩ | ⟨rfl, rfl⟩ | ⟨rfl, rfl⟩ := selectRegister_eq_some hsel <;> exact ⟨rfl, rfl⟩

theorem decodeTick_eq_ok {sel : BitVec 2} {data : BitVec 8} {i : Instr} (h : decodeTick sel data = .ok i) (n : Nat) :
    encode i = assemble 0b10#2 sel data ∧ WellFormed n i := by
  unfold decodeTick at h
  split_ifs at h with hzero
  obtain ⟨rfl, rfl⟩ := hzero
  cases h
  exact ⟨rfl, rfl⟩

theorem decodeHost_eq_ok {n : Nat} {sel : BitVec 2} {data : BitVec 8} {i : Instr} (h : decodeHost n sel data = .ok i) :
    encode i = assemble 0b11#2 sel data ∧ WellFormed n i := by
  unfold decodeHost at h
  split_ifs at h with h0 hdata h1 hlt h2 hlt <;> cases h
  · subst h0 hdata
    exact ⟨rfl, rfl⟩
  · subst h1
    exact ⟨rfl, decide_eq_true hlt⟩
  · subst h2
    exact ⟨rfl, decide_eq_true hlt⟩
  · obtain rfl : sel = 0b11#2 := by bv_omega
    exact ⟨rfl, rfl⟩

/-- Settles O2: each kind gives back its own fields, and a word is assembled from its fields. -/
theorem decodedWordEncodesBack : Obligations.DecodedWordEncodesBack := by
  intro n w i h
  obtain ⟨kind, sel, data, rfl⟩ : ∃ kind sel data, w = assemble kind sel data :=
    ⟨_, _, _, (assemble_fields w).symm⟩
  unfold decode at h
  simp only [wordKind_assemble, wordSel_assemble, wordData_assemble] at h
  split_ifs at h with h0 h1 h2
  · exact h0 ▸ decodeRead_eq_ok h n
  · exact h1 ▸ decodeWrite_eq_ok h n
  · exact h2 ▸ decodeTick_eq_ok h n
  · obtain rfl : kind = 0b11#2 := by bv_omega
    exact decodeHost_eq_ok h

/-! ### The rows of the opcode map (rule R63) -/

theorem opcodeRow_fits_encode (i : Instr) : (opcodeRow i).fits (encode i) = true := by
  cases i with
  | readStatus => exact Laws.EncodingFitsRow.readStatus
  | writeStatus v => exact Laws.EncodingFitsRow.writeStatus v
  | readControl => exact Laws.EncodingFitsRow.readControl
  | writeControl v => exact Laws.EncodingFitsRow.writeControl v
  | readData => exact Laws.EncodingFitsRow.readData
  | writeData v => exact Laws.EncodingFitsRow.writeData v
  | poll => exact Laws.EncodingFitsRow.poll
  | create => exact Laws.EncodingFitsRow.create
  | setInputEndpoint e => exact Laws.EncodingFitsRow.setInputEndpoint e
  | setOutputEndpoint e => exact Laws.EncodingFitsRow.setOutputEndpoint e
  | rxArrive b => exact Laws.EncodingFitsRow.rxArrive b

/-- The eleven rows: an operation's row does not depend on its operand. -/
def opcodeRows : List OpcodeRow :=
  [.readStatus, .writeStatus 0, .readControl, .writeControl 0, .readData, .writeData 0, .poll, .create,
    .setInputEndpoint 0, .setOutputEndpoint 0, .rxArrive 0].map opcodeRow

theorem opcodeRow_mem_opcodeRows (i : Instr) : opcodeRow i ∈ opcodeRows := by
  cases i <;> simp [opcodeRows, opcodeRow]

/-- The fixed bits tell the rows apart. -/
theorem opcodeRows_fixed_nodup : (opcodeRows.map OpcodeRow.fixed).Nodup := by decide

/-- Every row fixes the upper four bits, and its fixed bits below them are zero. -/
theorem opcodeRows_upper :
    ∀ row ∈ opcodeRows, row.mask &&& 0xF00#12 = 0xF00#12 ∧ row.fixed &&& 0xF00#12 = row.fixed := by decide

/-- The upper four bits of a word are the fixed bits of any row that it fits. -/
theorem fixed_of_fits {i : Instr} {w : StimulusWord} (h : (opcodeRow i).fits w = true) :
    (opcodeRow i).fixed = w &&& 0xF00#12 := by
  obtain ⟨hmask, hfixed⟩ := opcodeRows_upper _ (opcodeRow_mem_opcodeRows i)
  have hfits : w &&& (opcodeRow i).mask = (opcodeRow i).fixed := of_decide_eq_true h
  rw [← hfixed, ← hfits, BitVec.and_assoc, hmask]

/-- Settles O3: a decoded word is its operation's own word, and two rows one word fits have the same fixed bits. -/
theorem opcodeRowsDoNotOverlap : Obligations.OpcodeRowsDoNotOverlap := by
  refine ⟨fun n w i h => ?_, fun i j w hi hj => ?_⟩
  · obtain ⟨rfl, -⟩ := decodedWordEncodesBack n w i h
    exact opcodeRow_fits_encode i
  · exact List.inj_on_of_nodup_map opcodeRows_fixed_nodup (opcodeRow_mem_opcodeRows i) (opcodeRow_mem_opcodeRows j)
      ((fixed_of_fits hi).trans (fixed_of_fits hj).symm)

/-! ### The words as numbers, and the reserved ones -/

theorem assemble_toNat (kind sel : BitVec 2) (data : BitVec 8) :
    (assemble kind sel data).toNat = kind.toNat * 1024 + sel.toNat * 256 + data.toNat := by
  have hsel : sel.toNat < 2 ^ 2 := sel.isLt
  have hdata : data.toNat < 2 ^ 8 := data.isLt
  rw [assemble, BitVec.toNat_append, BitVec.toNat_append, ← Nat.shiftLeft_add_eq_or_of_lt hsel,
    ← Nat.shiftLeft_add_eq_or_of_lt hdata, Nat.shiftLeft_eq, Nat.shiftLeft_eq]
  omega

/-- The operand byte stands in the lower eight bits, as rule R63 writes it. -/
theorem assemble_eq_or (kind sel : BitVec 2) (data : BitVec 8) :
    assemble kind sel data = assemble kind sel 0#8 ||| data.setWidth 12 := by
  apply BitVec.eq_of_getLsbD_eq
  intro i hi
  rw [BitVec.getLsbD_or, assemble_getLsbD, assemble_getLsbD, BitVec.getLsbD_setWidth]
  by_cases h : i < 8
  · simp [h, hi]
  · simp [h, BitVec.getLsbD_of_ge data i (by omega)]

/-- The reserved ranges of rule R63, for a table of `n` entries. -/
abbrev InReservedRange (n word : Nat) : Prop :=
  (0x001 ≤ word ∧ word ≤ 0x0FF) ∨ (0x101 ≤ word ∧ word ≤ 0x1FF) ∨ (0x201 ≤ word ∧ word ≤ 0x2FF) ∨
  (0x300 ≤ word ∧ word ≤ 0x3FF) ∨ (0x700 ≤ word ∧ word ≤ 0x7FF) ∨ (0x801 ≤ word ∧ word ≤ 0xBFF) ∨
  (0xC01 ≤ word ∧ word ≤ 0xCFF) ∨ (0xD00 + n ≤ word ∧ word ≤ 0xDFF) ∨ (0xE00 + n ≤ word ∧ word ≤ 0xEFF)

/-- No well-formed operation has a reserved word. -/
theorem encode_not_reserved {n : Nat} {i : Instr} (hwf : WellFormed n i) : ¬ InReservedRange n (encode i).toNat := by
  cases i with
  | readStatus | readControl | readData | poll | create =>
    simp only [InReservedRange, encode, assemble_toNat, BitVec.toNat_ofNat]
    omega
  | writeStatus v | writeControl v | writeData v | rxArrive v =>
    have hv : v.toNat < 256 := v.isLt
    simp only [InReservedRange, encode, assemble_toNat, BitVec.toNat_ofNat]
    omega
  | setInputEndpoint e | setOutputEndpoint e =>
    have he : e.toNat < 256 := e.isLt
    have hlt : e.toNat < n := of_decide_eq_true hwf
    simp only [InReservedRange, encode, assemble_toNat, BitVec.toNat_ofNat]
    omega

theorem decode_error_of_reserved {n : Nat} {w : StimulusWord} (h : InReservedRange n w.toNat) :
    ∃ why, decode n w = .error why := by
  cases hd : decode n w with
  | error why => exact ⟨why, rfl⟩
  | ok i =>
    obtain ⟨rfl, hwf⟩ := decodedWordEncodesBack n w i hd
    exact absurd h (encode_not_reserved hwf)

/-- Settles O5: each word is, bit by bit, the word of its operation. -/
theorem writtenOutWordsDecode : Obligations.WrittenOutWordsDecode := by
  have h (i : Instr) : WellFormed 5 i → decode 5 (encode i) = .ok i := encodedOperationDecodesBack 5 i
  exact ⟨h .readStatus rfl, h (.writeStatus 0xFF#8) rfl, h (.writeControl 0x80#8) rfl, h .readData rfl,
    h (.writeData 0x41#8) rfl, h .poll rfl, h .create rfl, h (.setInputEndpoint 2#8) rfl,
    h (.setOutputEndpoint 1#8) rfl, h (.rxArrive 0x55#8) rfl, rfl⟩

end Sys2Proof

namespace Sys2Proof.Machine

theorem step_of_reserved {s : State} {w : StimulusWord} {rest : List Stimulus} {why : Reserved}
    (h : s.stimuli = .word w :: rest) (hd : decode s.endpoints.length w = .error why) :
    step s = .refused (.reservedWord why) :=
  step_of_refuse h (by simp [resolve, resolveWord, hd])

/-- Settles O4: the rows are the words of the operations, and the reserved ranges hold no operation's word. -/
theorem opcodeMapAndReservedWords : Obligations.OpcodeMapAndReservedWords := by
  intro n w
  have row {i : Instr} (hw : w = encode i) (hwf : WellFormed n i) : decode n w = .ok i :=
    hw ▸ encodedOperationDecodesBack n i hwf
  have operand {kind sel : BitVec 2} {v : BitVec 8} (hw : w = assemble kind sel 0#8 ||| v.setWidth 12) :
    w = assemble kind sel v := hw.trans (assemble_eq_or kind sel v).symm
  refine ⟨fun hw => row hw rfl, fun hw => row hw rfl, fun hw => row hw rfl, fun v hw => row (operand hw) rfl,
    fun v hw => row (operand hw) rfl, fun v hw => row (operand hw) rfl, fun hw => row hw rfl, fun hw => row hw rfl,
    fun e hw he => row (operand hw) (decide_eq_true he), fun e hw he => row (operand hw) (decide_eq_true he),
    fun b hw => row (operand hw) rfl, fun hres => ?_⟩
  obtain ⟨why, hd⟩ := decode_error_of_reserved hres
  exact ⟨why, hd, fun s rest hn hs => step_of_reserved hs (hn ▸ hd)⟩

/-! ### What the bus master can reach (rules R59 to R61) -/

/-- An access of the bus master is one of its six operations or none at all. -/
abbrev BusResolution (r : Resolution) : Prop :=
  (∃ i, r = .operation i ∧ i.agent = .busMaster) ∨ r = .notThisBlock ∨ (∃ why, r = .refuse why) ∨ ∃ why, r = .stop why

theorem agent_of_busResolution {i : Instr} (h : BusResolution (.operation i)) : i.agent = .busMaster := by
  simpa [BusResolution] using h

theorem resolveAccess_cases (s : State) (addr n : Nat) {f : Register → Resolution} (hf : ∀ r, BusResolution (f r)) :
    BusResolution (resolveAccess s addr n f) := by
  unfold resolveAccess
  split
  · split
    · split
      · exact hf _
      · exact .inr (.inl rfl)
    · split
      · exact .inr (.inr (.inl ⟨_, rfl⟩))
      · exact .inr (.inl rfl)
  · exact .inr (.inr (.inr ⟨_, rfl⟩))

theorem resolveFetch_cases (s : State) (addr n : Nat) : BusResolution (resolveFetch s addr n) := by
  unfold resolveFetch
  split
  · split
    · exact .inr (.inr (.inl ⟨_, rfl⟩))
    · exact .inr (.inl rfl)
  · exact .inr (.inr (.inr ⟨_, rfl⟩))

/-- The events of the bus master (rule R69). -/
abbrev IsBusAccess (ev : Event) : Prop :=
  (∃ addr n, ev = .busRead addr n) ∨ (∃ addr bytes, ev = .busWrite addr bytes) ∨ ∃ addr n, ev = .instrFetch addr n

theorem resolve_of_busAccess {ev : Event} (h : IsBusAccess ev) (s : State) : BusResolution (resolve s (.event ev)) := by
  obtain ⟨addr, n, rfl⟩ | ⟨addr, bytes, rfl⟩ | ⟨addr, n, rfl⟩ := h
  · exact resolveAccess_cases s addr n fun r => .inl ⟨_, rfl, agent_readOf r⟩
  · exact resolveAccess_cases s addr bytes.length fun r => .inl ⟨_, rfl, agent_writeOf _ r⟩
  · exact resolveFetch_cases s addr n

/-- An operation of the bus master is none of any other agent's, and so rebinds nothing (rules R9, R111). -/
theorem ne_of_busMaster {i : Instr} (hi : i.agent = .busMaster) :
    i ≠ .poll ∧ i ≠ .create ∧ (∀ b, i ≠ .rxArrive b) ∧ bindsInput i = false ∧ bindsOutput i = false := by
  cases i with
  | readStatus | writeStatus | readControl | writeControl | readData | writeData => simp [bindsInput, bindsOutput]
  | poll | create | setInputEndpoint | setOutputEndpoint | rxArrive => cases hi

theorem created_of_busMaster {i : Instr} {s t : State} (hi : i.agent = .busMaster) (h : exec i s = .next t) :
    s.created = true := by
  obtain ⟨-, hcreate, hrx, -, -⟩ := ne_of_busMaster hi
  by_contra hc
  have hfault := operationsBeforeCreateFault i s (Bool.eq_false_iff.2 hc) hcreate hrx
  rw [h] at hfault
  cases hfault

/-- What emulated software leaves of the machine (rules R59, R111). -/
abbrev BusFrame (s t : State) : Prop :=
  t.inEP = s.inEP ∧ t.outEP = s.outEP ∧ t.created = s.created ∧ t.irqlog = s.irqlog ∧ t.out.irqReq = none ∧
  (rxcSet s = false → s.cfg.WF → rxcSet t = false)

theorem exec_busFrame {i : Instr} {s t : State} (hi : i.agent = .busMaster) (h : exec i s = .next t) : BusFrame s t := by
  have hc : s.created = true := created_of_busMaster hi h
  obtain ⟨hpoll, hcreate, -, hin, hout⟩ := ne_of_busMaster hi
  have hrxc (hclear : rxcSet s = false) (hwf : s.cfg.WF) : rxcSet t = false := by
    rw [exec_rxc hwf hc h, hclear, if_neg hpoll, ite_self]
  have hcreated : t.created = s.created := (exec_created hc h).1.trans hc.symm
  obtain ⟨-, rfl⟩ := exec_eq_next.1 h
  exact ⟨effect_inEP hin s, effect_outEP hout s, hcreated, by simp [effect_irqlog hcreate, hpoll],
    by simp [effect_irqReq, hpoll], hrxc⟩

/-- Settles O15, by what an access of the bus master can resolve to. -/
theorem emulatedSoftwareReachesOnlyRegisterOperations :
    Obligations.EmulatedSoftwareReachesOnlyRegisterOperations := by
  intro s rest ev hev hs
  have hbus := resolve_of_busAccess hev s
  refine ⟨fun i hi => agent_of_busResolution (hi ▸ hbus), fun t ht => ?_⟩
  rw [step_of_stimulus hs] at ht
  obtain ⟨i, hr, hagent⟩ | hr | ⟨_, hr⟩ | ⟨_, hr⟩ := hbus <;> rw [hr] at ht
  · exact exec_busFrame (s := { s with stimuli := rest }) hagent ht
  · cases ht
    exact ⟨rfl, rfl, rfl, rfl, rfl, fun hclear _ => hclear⟩
  · cases ht
  · cases ht

/-! ### The tick (rules R60, R87) -/

theorem resolve_tick {s : State} (hI : s.Inv) (hc : s.created = true) : resolve s (.event .tick) = .operation .poll := by
  obtain ⟨-, -, hcol, -⟩ := hI
  obtain ⟨-, henrolled⟩ := hcol hc
  exact if_pos henrolled

/-- Settles O13: on a created block `poll` is enrolled. -/
theorem tickPerformsPoll : Obligations.TickPerformsPoll := by
  intro s rest hI hc hs
  rw [step_of_stimulus hs, resolve_tick hI hc]
  rfl

/-! ### Arrivals and the script's input (rule R67) -/

/-- Settles O31: the operation is the arrival at the bound input. -/
theorem arrivalJoinsBoundInput : Obligations.ArrivalJoinsBoundInput := by
  refine ⟨assemble_eq_or 0b11#2 0b11#2, fun s b => ⟨fun ep hep hopen => ?_, fun hclosed => ?_⟩⟩
  · exact ⟨_, arriveAt_eq_next.2 ⟨ep, hep, hopen, rfl⟩, rfl, endpointAt_updateEndpoint_of_some hep _,
      fun _ hne => endpointAt_updateEndpoint_of_ne hne _ _⟩
  · exact arriveAt_of_not_open b hclosed

theorem pendingInput_of_endpointAt {s : State} {ep : Endpoint} (h : endpointAt s s.inEP = some ep) :
    pendingInput s = ep.pending := by
  simp [pendingInput, h]

theorem endpointAt_of_bindFreshInput {bytes : List Byte} {s t : State} (h : bindFreshInput bytes s = .next t) :
    endpointAt t t.inEP = some (finiteSource bytes) := by
  obtain ⟨-, rfl⟩ := bindFreshInput_eq_next.1 h
  simp [endpointAt]

/-- Settles O33: the fresh source is the last entry of the longer table. -/
theorem bindInputGivesFreshSource : Obligations.BindInputGivesFreshSource := by
  intro s rest bytes hc hs
  have hbind := (bindFreshInput_eq_next (s := releaseOutputs { s with stimuli := rest }) (bytes := bytes)).2 ⟨hc, rfl⟩
  have hfresh := endpointAt_of_bindFreshInput hbind
  exact ⟨_, (step_of_event hs).trans hbind, rfl, pendingInput_of_endpointAt hfresh,
    rxAvail_canonical hfresh rfl, fun ref hlt => List.getElem?_append_left hlt⟩

/-! ### Indices beyond the endpoint table (rule R63, log 14) -/

/-- Settles O49: both rebinds look the index up before they bind it. -/
theorem endpointIndexBeyondTableIsRefused : Obligations.EndpointIndexBeyondTableIsRefused := by
  intro s e rest hc hbeyond
  have hout : ¬ e.toNat < s.endpoints.length := by omega
  have hin (i : Instr) (hi : i = .setInputEndpoint e ∨ i = .setOutputEndpoint e) (later : List Stimulus) :
      exec i { s with stimuli := later } = .refused (.endpointBeyondTable e) := by
    rw [exec_eq_refused]
    obtain rfl | rfl := hi <;> simp [stopOf, hc, hout]
  exact ⟨hin _ (.inl rfl) s.stimuli, hin _ (.inr rfl) s.stimuli,
    fun hs => (step_of_event hs).trans (hin _ (.inl rfl) rest),
    fun hs => (step_of_event hs).trans (hin _ (.inr rfl) rest)⟩

end Sys2Proof.Machine

/-! Proofs of the register access family: what holds along a sequence of operations; what the status byte shows; and the six operations of the bus master, register by register. -/

namespace Sys2Proof.Machine

/-! ### Along a sequence of operations of the created block -/

/-- What every operation of a sequence keeps on a created block with admissible parameters, the sequence keeps. -/
theorem execAll_keeps {P : State → Prop} {ops : List Instr}
    (hkeep : ∀ i ∈ ops, ∀ s t, s.cfg.WF → s.created = true → exec i s = .next t → P s → P t) {s u : State}
    (hwf : s.cfg.WF) (hc : s.created = true) (h : execAll ops s = some u) (hs : P s) : P u := by
  induction ops generalizing s with
  | nil => exact Option.some.inj h ▸ hs
  | cons i ops ih =>
    obtain ⟨hi, hrest⟩ := List.forall_mem_cons.1 hkeep
    obtain ⟨t, ht, hu⟩ := execAll_cons h
    obtain ⟨hc', hcfg⟩ := exec_created hc ht
    exact ih hrest (hcfg ▸ hwf) hc' hu (hi s t hwf hc ht hs)

/-- RXC stays clear without a `poll` (rules R23, R74). -/
theorem execAll_keeps_rxc_clear {ops : List Instr} {s u : State} (hwf : s.cfg.WF) (hc : s.created = true)
    (hpoll : .poll ∉ ops) (h : execAll ops s = some u) (hs : rxcSet s = false) : rxcSet u = false := by
  refine execAll_keeps (P := fun s => rxcSet s = false) (fun i hi s t hwf hc ht hs => ?_) hwf hc h hs
  by_contra hset
  obtain ⟨rfl, -⟩ := poll_of_rxc_rises hwf hc ht hs (eq_true_of_ne_false hset)
  exact hpoll hi

/-- While RXC is set there is no rising edge, and so no request (rules R82, R102). -/
theorem exec_irqlog_of_rxc {i : Instr} {s t : State} (hc : s.created = true) (h : exec i s = .next t)
    (hs : rxcSet s = true) : t.irqlog = s.irqlog := by
  have hi := ne_create_of_exec_next hc h
  obtain ⟨-, rfl⟩ := exec_eq_next.1 h
  simp [effect_irqlog hi, hs]

/-- Without a `readData` RXC stays set, and nothing is requested (rules R73, R82). -/
theorem execAll_irqlog_of_rxc {ops : List Instr} {s u : State} (hwf : s.cfg.WF) (hc : s.created = true)
    (hread : .readData ∉ ops) (h : execAll ops s = some u) (hs : rxcSet s = true) : u.irqlog = s.irqlog := by
  refine (execAll_keeps (P := fun t => rxcSet t = true ∧ t.irqlog = s.irqlog) (fun i hi t t' hwf hc ht hP => ?_)
    hwf hc h ⟨hs, rfl⟩).2
  obtain ⟨hset, hlog⟩ := hP
  refine ⟨?_, (exec_irqlog_of_rxc hc ht hset).trans hlog⟩
  by_contra hclear
  obtain rfl := readData_of_rxc_falls hwf hc ht hset (eq_false_of_ne_true hclear)
  exact hread hi

/-- Without `TXC_SET_ON_WRITE` a clear TXC stays clear (rules R22, R75). -/
theorem execAll_keeps_txc_clear {ops : List Instr} {s u : State} (hwf : s.cfg.WF) (hc : s.created = true)
    (h : execAll ops s = some u) (hno : s.cfg.txcSetOnWrite = false) (hs : txcSet s = false) : txcSet u = false := by
  refine (execAll_keeps (P := fun s => s.cfg.txcSetOnWrite = false ∧ txcSet s = false)
    (fun i _ s t hwf hc ht hP => ?_) hwf hc h ⟨hno, hs⟩).2
  obtain ⟨hno, hclear⟩ := hP
  refine ⟨exec_cfg ht ▸ hno, ?_⟩
  by_contra hset
  simpa [hclear] using txcSet_of_exec hwf hc ht hno (eq_true_of_ne_false hset)

/-! ### `readStatus` (rule R70) -/

theorem and_bitMask (b : Byte) (i : Fin 8) : b &&& bitMask i = if isset b (bitMask i) then bitMask i else 0#8 := by
  apply BitVec.eq_of_getLsbD_eq
  intro j _
  rw [isset_bitMask, BitVec.getLsbD_and, bitMask_getLsbD]
  by_cases h : i.val = j
  · subst h
    cases hb : b.getLsbD i.val <;> simp [bitMask_getLsbD]
  · cases b.getLsbD i.val <;> simp [h, bitMask_getLsbD]

/-- TXC, RXC and the five other bits are every bit but DRE (rule R7). -/
theorem getLsbD_of_ne_dre {c : Config} {j : Nat} (hj : j < 8) (h : c.dreBit.val ≠ j) :
    (txcMask c ||| rxcMask c ||| otherMask c).getLsbD j = true := by
  by_cases htxc : c.txcBit.val = j
  · simp [txcMask, bitMask_getLsbD, htxc]
  · by_cases hrxc : c.rxcBit.val = j
    · simp [rxcMask, bitMask_getLsbD, hrxc]
    · simp [otherMask_getLsbD, hj, h, htxc, hrxc]

/-- Rule R70, corner 4: the byte a status read returns is the stored other bits with DRE forced. -/
theorem forcedStatus_eq (c : Config) (b : Byte) :
    b ||| dreMask c = (b &&& (txcMask c ||| rxcMask c ||| otherMask c)) ||| dreMask c := by
  apply BitVec.eq_of_getLsbD_eq
  intro j hj
  rw [BitVec.getLsbD_or, BitVec.getLsbD_or, BitVec.getLsbD_and]
  by_cases h : c.dreBit.val = j
  · simp [dreMask, bitMask_getLsbD, h]
  · rw [getLsbD_of_ne_dre hj h, Bool.and_true]

/-- With the five other bits clear, TXC and RXC are all a status read shows beside DRE. -/
theorem forcedStatus_of_otherBits_clear {c : Config} {b : Byte} (h : b &&& otherMask c = 0#8) :
    b ||| dreMask c = dreMask c ||| (if isset b (txcMask c) then txcMask c else 0#8) |||
      (if isset b (rxcMask c) then rxcMask c else 0#8) := by
  rw [forcedStatus_eq, BitVec.and_or_distrib_left, BitVec.and_or_distrib_left, h, txcMask, rxcMask, and_bitMask,
    and_bitMask, BitVec.or_zero, BitVec.or_comm, BitVec.or_assoc]

/-- Under `STATUS_STORE_OTHER = false` with a zero reset byte the five other bits are always clear (rule R27). -/
theorem otherBits_clear {s : State} (hI : s.Inv) (hc : s.created = true) (hno : s.cfg.statusStoreOther = false)
    (hzero : s.cfg.statusReset = 0x00#8) : s.status &&& otherMask s.cfg = 0#8 := by
  obtain ⟨-, -, -, -, hres, -⟩ := hI
  obtain ⟨-, hother, -⟩ := hres hc
  rw [hother hno, hzero, BitVec.zero_and]

/-- Settles O16: the effect is the answer alone, and the invariant says which of the stored bits can be set. -/
theorem readStatusReturnsForcedStatus : Obligations.ReadStatusReturnsForcedStatus := by
  refine ⟨rfl, fun s hI hc => resolve_registerLoad hI hc .status, fun s _ hc => ?_⟩
  have hbyte : (effect .readStatus s).out.rdata = some (s.status ||| dreMask s.cfg) := rfl
  refine ⟨effect .readStatus s, exec_of_busMaster rfl hc, rfl, rfl, isset_statusRead_dre s, rfl, rfl,
    exec_of_busMaster rfl hc, forcedStatus_eq _ _, fun hI hno hzero => ?_, fun hcfg hs => ?_, fun hcfg hs => ?_⟩
  · rw [hbyte, forcedStatus_of_otherBits_clear (otherBits_clear hI hc hno hzero)]
    cases isset s.status (txcMask s.cfg) <;> cases isset s.status (rxcMask s.cfg) <;> simp
  · rw [hbyte, hcfg, hs]
    decide
  · rw [hbyte, hcfg, hs]
    decide

/-! ### `writeStatus` (rule R71) -/

theorem statusWritten_zero {c : Config} (h : c.statusStoreOther = false) (status : Byte) :
    statusWritten c status 0x00#8 = status := by
  simp [statusWritten, storeOtherBits, clearTxcIfWritten, h, isset]

theorem statusWritten_ones {c : Config} (h : c.statusStoreOther = false) (status : Byte) :
    statusWritten c status 0xFF#8 = clearBits status (txcMask c) := by
  have hset : isset 0xFF#8 (txcMask c) = true := by
    have hall : ∀ i : Fin 8, isset 0xFF#8 (bitMask i) = true := by decide
    exact hall c.txcBit
  simp [statusWritten, storeOtherBits, clearTxcIfWritten, h, hset]

/-- Settles O17: the effect is the byte `statusWritten` gives, bit by bit. -/
theorem writeStatusClearsOnlyTransmitComplete : Obligations.WriteStatusClearsOnlyTransmitComplete := by
  refine ⟨assemble_eq_or 0b01#2 0b00#2, fun s v hI hc => resolve_registerStore hI hc .status v, fun s v hwf hc => ?_⟩
  have h : exec (.writeStatus v) s = .next (effect (.writeStatus v) s) := exec_of_busMaster rfl hc
  have htxc : txcSet (effect (.writeStatus v) s) = (txcSet s && !isset v (txcMask s.cfg)) := exec_txc hwf hc h
  have hbyte : (effect (.writeStatus v) s).status = statusWritten s.cfg s.status v := rfl
  have hagain := (exec_of_busMaster (i := .writeStatus v) rfl (exec_created hc h).1).trans
    (congrArg _ (effect_writeStatus_idem v s))
  refine ⟨_, h, rfl, htxc, exec_rxc hwf hc h, statusWritten_and_dreMask hwf _ _, isset_statusRead_dre _,
    statusWritten_and_otherMask _ _ _, fun hno hv => ?_, fun hno hv => ?_, hagain, fun hback => ?_,
    fun hcfg hs hv => ?_, fun hcfg hs hv => ?_⟩
  · rw [hbyte, hv, statusWritten_zero hno]
  · rw [hbyte, hv, statusWritten_ones hno]
  · rw [htxc, hback, Bool.and_not_self]
  · rw [statusRead, effect_cfg, hbyte, hcfg, hs, hv]
    decide
  · rw [hbyte, hcfg, hs, hv]
    decide

/-! ### `readControl` and `writeControl` (rules R72, R73) -/

theorem exec_readControl {s : State} (hc : s.created = true) :
    ∃ u, exec .readControl s = .next u ∧ u.out.rdata = some s.control :=
  ⟨_, exec_of_busMaster rfl hc, rfl⟩

/-- A `create` that leaves a created block leaves the reset byte in `control` (rules R36, R88). -/
theorem create_control {s t : State} (h : exec .create s = .next t) (ht : t.created = true) :
    t.control = s.cfg.controlReset := by
  obtain ⟨hc, ⟨-, rfl⟩ | ⟨-, rfl⟩⟩ := execCreate_eq_next.1 h
  · rfl
  · simp [hc] at ht

/-- Settles O18: the byte answered is the one stored, by a write or by `create`. -/
theorem readControlReturnsStoredByte : Obligations.ReadControlReturnsStoredByte := by
  refine ⟨rfl, fun s hI hc => resolve_registerLoad hI hc .control, fun s =>
    ⟨fun hc => ⟨_, exec_of_busMaster rfl hc, rfl, rfl⟩, fun v t h => ?_, fun t h ht => ?_⟩⟩
  · obtain ⟨hc, rfl⟩ := execWriteControl_eq_next.1 h
    exact exec_readControl hc
  · rw [← create_control h ht]
    exact exec_readControl ht

/-- Settles O19: the effect is the stored byte alone, and with RXC set no later operation but a `readData` prepares a request. -/
theorem writeControlStoresVerbatimWithoutRequest : Obligations.WriteControlStoresVerbatimWithoutRequest := by
  refine ⟨assemble_eq_or 0b01#2 0b01#2, fun s v hI hc => resolve_registerStore hI hc .control v, fun s v hwf hc => ?_⟩
  refine ⟨effect (.writeControl v) s, exec_of_busMaster rfl hc, rfl, rfl, rfl, rfl, rfl, fun hr ops u hops hu => ?_,
    exec_of_busMaster rfl hc⟩
  exact execAll_irqlog_of_rxc (s := effect (.writeControl v) s) hwf hc hops hu hr

/-! ### `readData` (rule R74) -/

theorem effect_readData_of_clear {s : State} (h : rxcSet s = false) :
    effect .readData s = { s with out := { Outputs.idle with rdata := some 0x00#8 } } := by
  simp only [effect, h, Bool.false_eq_true, if_false]
  rfl

/-- The frame of a `readData` that finds RXC set. -/
theorem effect_readData_of_set {s : State} (h : rxcSet s = true) :
    effect .readData s = { s with
      status := clearBits s.status (rxcMask s.cfg), endpoints := (effect .readData s).endpoints
      draws := (effect .readData s).draws
      out := { Outputs.idle with rdata := some ((rxAnswer s).getD 0x00#8), rxTake := true } } := by
  apply state_ext <;> simp [effect, h]

/-- A read removes nothing where it fails (rule R30). -/
theorem effect_readData_endpoints_of_failed {s : State} (ha : rxAnswer s = none) :
    (effect .readData s).endpoints = s.endpoints := by
  cases h : rxcSet s <;> simp [effect, h, ha]

/-- Of its entry a `readData` changes the pending bytes alone. -/
theorem entryEffect_readData (s : State) (ep : Endpoint) :
    entryEffect .readData s ep = { ep with pending := (entryEffect .readData s ep).pending } := by
  simp only [entryEffect]
  split <;> rfl

theorem effect_readData_boundEntry {s : State} {ep : Endpoint} (h : endpointAt s s.inEP = some ep) :
    endpointAt (effect .readData s) s.inEP = some { ep with pending := pendingInput (effect .readData s) } := by
  have hin : (effect .readData s).inEP = s.inEP := effect_inEP rfl s
  have hentry : endpointAt (effect .readData s) s.inEP = some (entryEffect .readData s ep) := by
    rw [effect_endpointAt, h]
    exact if_pos rfl
  rw [pendingInput_of_endpointAt (hin.symm ▸ hentry), ← entryEffect_readData, hentry]

/-- A written byte never joins the pending input (rule R74). -/
theorem writeData_pendingInput {v : Byte} {s u : State} (h : exec (.writeData v) s = .next u) :
    pendingInput u = pendingInput s := by
  simpa [takenBy, arrivals] using exec_conserves_input rfl h

/-- An operation leaves every entry alone but the one it touches. -/
theorem effect_endpointAt_of_ne {i : Instr} {s : State} {ref : Nat} (h : ref ≠ touchedEntry i s) :
    endpointAt (effect i s) ref = endpointAt s ref := by
  rw [effect_endpointAt, if_neg h.symm]

/-- Settles O20, by whether RXC is set. -/
theorem readDataConsumesOneDetectedByte : Obligations.ReadDataConsumesOneDetectedByte := by
  refine ⟨rfl, fun s hI hc => resolve_registerLoad hI hc .data, fun s hwf hc => ?_⟩
  have h : exec .readData s = .next (effect .readData s) := exec_of_busMaster rfl hc
  obtain ⟨hc', hcfg⟩ := exec_created hc h
  have hclear : rxcSet (effect .readData s) = false := exec_rxc hwf hc h
  refine ⟨_, h, effect_readData_of_clear, fun hr => ?_, hclear, exec_txc hwf hc h,
    ⟨_, exec_of_busMaster rfl hc', effect_readData_of_clear hclear⟩,
    fun ops u hops hu => execAll_keeps_rxc_clear (hcfg ▸ hwf) hc' hops hu hclear, fun v u => writeData_pendingInput⟩
  have hbytes := readData_pendingInput s
  rw [takenBy, if_pos ⟨rfl, hr⟩] at hbytes
  exact ⟨effect_readData_of_set hr, hbytes, effect_readData_endpoints_of_failed,
    fun ref hne => effect_endpointAt_of_ne hne, fun ep => effect_readData_boundEntry, fun ep => rxAnswer_canonical⟩

/-! ### `writeData` (rule R75) -/

/-- The frame of a `writeData`. -/
theorem effect_writeData (v : Byte) (s : State) :
    effect (.writeData v) s = { s with
      status := (effect (.writeData v) s).status, endpoints := (effect (.writeData v) s).endpoints
      txlog := s.txlog ++ [(s.outEP, v)], draws := (effect (.writeData v) s).draws
      out := { Outputs.idle with txPut := some v } } := by
  apply state_ext <;> simp [effect]

/-- The bound output receives the byte exactly if it takes it (rules R31, R97). -/
theorem effect_writeData_boundEntry (v : Byte) {s : State} {ep : Endpoint} (h : endpointAt s s.outEP = some ep) :
    endpointAt (effect (.writeData v) s) s.outEP =
      some (if txAccepted s then { ep with received := ep.received ++ [v] } else ep) := by
  rw [effect_endpointAt, h]
  cases ha : txAccepted s <;> simp [touchedEntry, entryEffect, ha, Endpoint.receive]

theorem txAccepted_canonical {s : State} {ep : Endpoint} (h : endpointAt s s.outEP = some ep)
    (hk : ep.outputKind = .canonical) : txAccepted s = true := by
  simp [txAccepted, h, hk]

theorem txAccepted_closed {s : State} {ep : Endpoint} (h : endpointAt s s.outEP = some ep)
    (hk : ep.outputKind = .closed) : txAccepted s = false := by
  simp [txAccepted, h, hk]

/-- What a `writeData` does never depends on `control` (rule R75). -/
theorem effect_writeData_withControl (v c : Byte) (s : State) :
    effect (.writeData v) { s with control := c } = { effect (.writeData v) s with control := c } := by
  have hput := txWrite_withRegisters v s.status c (releaseOutputs s)
  exact congrArg (fun t : State => { t with status := statusAfterTransmit s.cfg s.status }) hput

/-- Settles O21: the effect is one `TxWrite` and the flag. -/
theorem writeDataForwardsItsByteOnce : Obligations.WriteDataForwardsItsByteOnce := by
  refine ⟨assemble_eq_or 0b01#2 0b10#2, fun s v hI hc => resolve_registerStore hI hc .data v, fun s v hwf hc => ?_⟩
  have h : exec (.writeData v) s = .next (effect (.writeData v) s) := exec_of_busMaster rfl hc
  have hbyte : (effect (.writeData v) s).status = statusAfterTransmit s.cfg s.status := rfl
  have hdre := isset_statusRead_dre (effect (.writeData v) s)
  rw [effect_cfg] at hdre
  refine ⟨_, h, effect_writeData v s, rfl, exec_txc hwf hc h, exec_rxc hwf hc h, isset_statusRead_dre s,
    hdre, fun ref hne => effect_endpointAt_of_ne hne,
    fun ep hep => ⟨effect_writeData_boundEntry v hep, txAccepted_canonical hep, txAccepted_closed hep⟩,
    fun c => ?_, fun hno hclear ops u hu => execAll_keeps_txc_clear hwf hc hu hno hclear, fun hcfg hs _ => ?_⟩
  · rw [← effect_writeData_withControl]
    exact exec_of_busMaster rfl hc
  · rw [statusRead, effect_cfg, hbyte, hcfg, hs]
    decide

end Sys2Proof.Machine

/-! Proofs of the poll family: what a poll leaves, whole; a poll repeated; rounds of `poll` and `readData`; and the silence of an exhausted source. -/

namespace Sys2Proof.Machine

/-! ### `poll` (rule R80) -/

theorem exec_poll {s : State} (hc : s.created = true) : exec .poll s = .next (effect .poll s) :=
  exec_eq_next.2 ⟨by simp [stopOf, hc], rfl⟩

/-- What a poll hands out is its request alone (rule R102). -/
theorem effect_poll_out (s : State) :
    (effect .poll s).out = { Outputs.idle with irqReq := if Requests .poll s then some s.cfg.rxIrqLine else none } := by
  rw [← effect_irqReq]
  simp only [effect]
  split
  · rw [detectInput_out, afterRxAvail_out]
    split <;> rfl
  · rw [afterRxAvail_out]
    rfl

theorem effect_poll_draws (s : State) :
    (effect .poll s).draws = if boundToHostStream s then s.draws + 1 else s.draws := by
  have hbound : boundToHostStream (releaseOutputs s) = boundToHostStream s := rfl
  cases ha : rxAvail s <;> simp [effect, ha, hbound]

/-- The state a poll leaves, field by field (rules R80, R82). -/
theorem effect_poll (s : State) :
    effect .poll s = { s with
      status := if rxAvail s then setBits s.status (rxcMask s.cfg) else s.status
      irqlog := s.irqlog ++ if Requests .poll s then [s.cfg.rxIrqLine] else []
      draws := if boundToHostStream s then s.draws + 1 else s.draws
      out := { Outputs.idle with irqReq := if Requests .poll s then some s.cfg.rxIrqLine else none } } := by
  apply state_ext
  case h1 => exact (effect_registers .poll s).1
  case h8 => exact effect_irqlog (by simp) s
  case h12 => exact effect_poll_out s
  case h13 => exact effect_poll_draws s
  all_goals
    simp only [effect]
    split <;> simp

/-- RXC after a poll (rules R23, R80). -/
theorem rxcSet_effect_poll (s : State) : rxcSet (effect .poll s) = (rxcSet s || rxAvail s) := by
  rw [rxcSet, effect_cfg, (effect_registers .poll s).1, statusLeft]
  cases rxAvail s
  · exact (Bool.or_false _).symm
  · exact (isset_setBits_self _ _).trans (Bool.or_true _).symm

/-- A poll makes no transition where nothing is available or RXC is set already (rules R80, R83). -/
theorem effect_poll_of_no_transition {s : State} (h : rxAvail s = false ∨ rxcSet s = true) :
    effect .poll s = { s with draws := (effect .poll s).draws, out := Outputs.idle } := by
  have hno : ¬ Requests .poll s := by
    rintro ⟨-, ha, hr, -⟩
    obtain h | h := h
    · simp [h] at ha
    · simp [h] at hr
  have hstatus : (if rxAvail s then setBits s.status (rxcMask s.cfg) else s.status) = s.status := by
    obtain h | h := h
    · simp [h]
    · have hset : setBits s.status (rxcMask s.cfg) = s.status := setBits_of_isset _ _ h
      rw [hset, ite_self]
  rw [effect_poll]
  simp only [hno, hstatus, if_false, List.append_nil]
  rfl

/-- Settles O22, read off the state a poll leaves. -/
theorem pollDetectsInputAndRequestsOnce : Obligations.PollDetectsInputAndRequestsOnce := by
  refine ⟨rfl, fun s => resolve_tick, fun s hc => operationsBeforeCreateFault .poll s hc (by simp) (by simp),
    fun s hwf hc => ⟨effect .poll s, exec_poll hc, ?_⟩⟩
  have hlog := effect_irqlog (i := .poll) (by simp) s
  have hreq := effect_irqReq .poll s
  refine ⟨?frame, ?out, fun ha => ?nothing, fun ha => ?detected, fun ha hr he => ?request, fun h => ?silent,
    fun hr => ?kept, exec_txc hwf hc (exec_poll hc), fun ep hep hk => ?canonical, fun x c o hx hcie => ?reads⟩
  case frame => rw [effect_poll]
  case out => rw [hreq]; exact effect_poll_out s
  case nothing =>
    rw [effect_poll_of_no_transition (.inl ha)]
    exact ⟨rfl, rfl, rfl⟩
  case detected =>
    refine ⟨?_, by rw [rxcSet_effect_poll, ha, Bool.or_true]⟩
    rw [effect_poll]
    exact if_pos ha
  case request =>
    have hyes : Requests .poll s := ⟨rfl, ha, hr, he⟩
    rw [hlog, hreq, if_pos hyes, if_pos hyes]
    exact ⟨rfl, rfl⟩
  case silent =>
    have hno : ¬ Requests .poll s := by
      rintro ⟨-, -, hr, he⟩
      simp [hr, he] at h
    rw [hlog, hreq, if_neg hno, if_neg hno, List.append_nil]
    exact ⟨rfl, rfl⟩
  case kept => rw [effect_poll_of_no_transition (.inr hr)]
  case canonical =>
    refine ⟨rxAvail_canonical hep hk, ?_⟩
    simp [effect_poll_draws, boundToHostStream, hep, hk, isHostStream]
  case reads =>
    set s' : State := { s with status := x, control := c, outEP := o }
    have ha : rxAvail s' = rxAvail s := rfl
    have hr : rxcSet s' = rxcSet s := hx
    have he : rxcieSet s' = rxcieSet s := hcie
    have hsame : Requests .poll s' ↔ Requests .poll s := by rw [Requests, ha, hr, he]
    refine ⟨effect .poll s', exec_poll hc, ?_, ?_, ?_, ?_⟩
    · rw [hlog, effect_irqlog (by simp)]
      simp only [hsame]
      rfl
    · rw [effect_poll_out, effect_poll_out]
      simp only [hsame]
      rfl
    · rw [rxcSet_effect_poll, rxcSet_effect_poll, ha, hr]
    · rw [effect_poll_draws, effect_poll_draws]
      rfl

/-- Settles O24: the first poll leaves RXC set, or it left the draws and so what is available as it was. -/
theorem repeatedPollChangesNothing : Obligations.RepeatedPollChangesNothing := by
  intro s t _ h havail
  obtain ⟨hc, -⟩ := execPoll_eq_next.1 h
  have hc' := (exec_created hc h).1
  obtain ⟨-, rfl⟩ := exec_eq_next.1 h
  refine ⟨_, exec_poll hc', effect_poll_of_no_transition ?_⟩
  cases ha : rxAvail s with
  | true => exact .inr (by rw [rxcSet_effect_poll, ha, Bool.or_true])
  | false =>
    have hhost : boundToHostStream s = false := havail.resolve_left (by simp [ha])
    have hsame : rxAvail (effect .poll s) = rxAvail s := by
      rw [effect_poll]
      exact rxAvail_congr rfl rfl (by simp [hhost])
    exact .inl (hsame.trans ha)

/-! ### Rounds of `poll` and `readData` (rule R84) -/

/-- A created block with RXC clear, bound to a canonical input whose pending bytes are `bytes`. -/
def ReadyToReceive (bytes : List Byte) (s : State) : Prop :=
  s.cfg.WF ∧ s.created = true ∧ rxcSet s = false ∧
    ∃ ep, endpointAt s s.inEP = some ep ∧ ep.inputKind = .canonical ∧ ep.pending = bytes

theorem pendingInput_of_readyToReceive {bytes : List Byte} {s : State} (h : ReadyToReceive bytes s) :
    pendingInput s = bytes := by
  obtain ⟨-, -, -, ep, hep, -, hp⟩ := h
  exact (pendingInput_of_endpointAt hep).trans hp

theorem effect_readData_frame (s : State) :
    (effect .readData s).control = s.control ∧ (effect .readData s).irqlog = s.irqlog :=
  ⟨effect_control (by simp) (by simp) s, by simp [effect_irqlog]⟩

/-- With RXC set, a `readData` on a canonical input hands back the oldest pending byte and is ready for the rest. -/
theorem readData_delivers {b : Byte} {bytes : List Byte} {s : State} {ep : Endpoint} (hwf : s.cfg.WF)
    (hc : s.created = true) (hr : rxcSet s = true) (hep : endpointAt s s.inEP = some ep)
    (hk : ep.inputKind = .canonical) (hp : ep.pending = b :: bytes) :
    (effect .readData s).out.rdata = some b ∧ ReadyToReceive bytes (effect .readData s) := by
  have hexec : exec .readData s = .next (effect .readData s) := exec_of_busMaster rfl hc
  have hanswer : rxAnswer s = some b := by rw [rxAnswer_canonical hep hk, hp, List.head?_cons]
  obtain ⟨hc', hcfg⟩ := exec_created hc hexec
  have hrest : pendingInput (effect .readData s) = bytes := by
    have hbytes := readData_pendingInput s
    rw [pendingInput_of_endpointAt hep, hp, takenBy, if_pos ⟨rfl, hr⟩, hanswer] at hbytes
    exact List.tail_eq_of_cons_eq hbytes
  have hentry := effect_readData_boundEntry hep
  rw [← effect_inEP (i := .readData) rfl s] at hentry
  refine ⟨?_, hcfg ▸ hwf, hc', exec_rxc hwf hc hexec, _, hentry, hk, hrest⟩
  rw [effect_readData_of_set hr, hanswer]
  rfl

/-- One round hands back the oldest pending byte, with its own request if enabled. -/
theorem round_delivers {b : Byte} {bytes : List Byte} {s : State} (h : ReadyToReceive (b :: bytes) s) :
    ∃ t u, exec .poll s = .next t ∧ exec .readData t = .next u ∧ u.out.rdata = some b ∧ ReadyToReceive bytes u ∧
      u.cfg = s.cfg ∧ rxcieSet u = rxcieSet s ∧
      u.irqlog = s.irqlog ++ if rxcieSet s then [s.cfg.rxIrqLine] else [] := by
  obtain ⟨hwf, hc, hr, ep, hep, hk, hp⟩ := h
  have hpoll := exec_poll hc
  have havail : rxAvail s = true := by rw [rxAvail_canonical hep hk, hp]; rfl
  obtain ⟨hc', hcfg⟩ := exec_created hc hpoll
  have hset : rxcSet (effect .poll s) = true := by rw [rxcSet_effect_poll, havail, Bool.or_true]
  have hep' : endpointAt (effect .poll s) (effect .poll s).inEP = some ep := by
    rw [effect_poll]
    exact hep
  obtain ⟨hbyte, hready⟩ := readData_delivers (hcfg ▸ hwf) hc' hset hep' hk hp
  obtain ⟨hcontrol, hlog⟩ := effect_readData_frame (effect .poll s)
  have hcfg' : (effect .readData (effect .poll s)).cfg = s.cfg := by rw [effect_cfg, hcfg]
  refine ⟨_, _, hpoll, exec_of_busMaster rfl hc', hbyte, hready, hcfg', ?_, ?_⟩
  · rw [rxcieSet, hcfg', hcontrol, effect_control (by simp) (by simp)]
    rfl
  · rw [hlog, effect_irqlog (by simp)]
    simp [Requests, havail, hr]

theorem rounds_deliver (bytes rest : List Byte) {s : State} (h : ReadyToReceive (bytes ++ rest) s) :
    ∃ t, execAll (receiveRounds bytes.length) s = some t ∧ handedBack (receiveRounds bytes.length) s = bytes ∧
      ReadyToReceive rest t ∧
      t.irqlog = s.irqlog ++ if rxcieSet s then List.replicate bytes.length s.cfg.rxIrqLine else [] := by
  induction bytes generalizing s with
  | nil => exact ⟨s, rfl, rfl, h, by simp⟩
  | cons b bytes ih =>
    obtain ⟨p, q, hpoll, hread, hbyte, hready, hcfg, hcie, hlog⟩ := round_delivers h
    obtain ⟨t, hall, hback, hready', hlog'⟩ := ih hready
    refine ⟨t, ?_, ?_, hready', ?_⟩
    · simpa [receiveRounds, execAll, hpoll, hread] using hall
    · simp [receiveRounds, handedBack, hpoll, hread, hbyte, hback]
    · rw [hlog', hlog, hcfg, hcie]
      cases rxcieSet s <;> simp [List.replicate_succ]

/-- Settles O46, by induction on the bytes: each round delivers the first and leaves the block ready for the rest. -/
theorem roundsDeliverPendingBytesInOrder : Obligations.RoundsDeliverPendingBytesInOrder := by
  intro bytes rest s ep hwf hc hr hep hk hp
  obtain ⟨t, hall, hback, hready, hlog⟩ := rounds_deliver bytes rest ⟨hwf, hc, hr, ep, hep, hk, hp⟩
  have hrest := pendingInput_of_readyToReceive hready
  obtain ⟨-, -, hclear, -⟩ := hready
  exact ⟨t, hall, hback, hrest, hclear, hlog⟩

/-! ### An exhausted source (rule R85) -/

/-- The bound input is closed and has nothing pending. -/
def InputExhausted (s : State) : Prop :=
  ∃ ep, endpointAt s s.inEP = some ep ∧ ep.pending = [] ∧ ep.isOpen = false

theorem rxAvail_of_inputExhausted {s : State} (h : InputExhausted s) : rxAvail s = false := by
  obtain ⟨ep, hep, hp, -⟩ := h
  by_contra ha
  exact rxAvail_pending (eq_true_of_ne_false ha) ((pendingInput_of_endpointAt hep).trans hp)

theorem entryEffect_isOpen (i : Instr) (s : State) (ep : Endpoint) : (entryEffect i s ep).isOpen = ep.isOpen := by
  cases i <;> simp only [entryEffect]
  case readData | writeData => split <;> rfl
  all_goals rfl

/-- No operation opens or closes an entry (log 30). -/
theorem effect_endpointAt_isOpen (i : Instr) {s : State} {ref : Nat} {ep : Endpoint} (h : endpointAt s ref = some ep) :
    ∃ ep', endpointAt (effect i s) ref = some ep' ∧ ep'.isOpen = ep.isOpen := by
  rw [effect_endpointAt, h]
  split
  · exact ⟨_, rfl, entryEffect_isOpen i s ep⟩
  · exact ⟨ep, rfl, rfl⟩

/-- No byte arrives at a closed input, and no operation but a rebind brings one otherwise. -/
theorem exec_inputExhausted {i : Instr} {s t : State} (hb : bindsInput i = false) (h : exec i s = .next t)
    (hs : InputExhausted s) : InputExhausted t := by
  obtain ⟨ep, hep, hp, hclosed⟩ := hs
  obtain rfl : t = effect i s := (exec_eq_next.1 h).2
  obtain ⟨ep', hep', hopen⟩ := effect_endpointAt_isOpen i hep
  refine ⟨ep', (effect_inEP hb s).symm ▸ hep', ?_, hopen.trans hclosed⟩
  obtain heq | ⟨b, rfl, -⟩ | ⟨-, -, -, heq⟩ := exec_pending h hep hep'
  · rw [heq, hp]
  · obtain ⟨ep₁, hep₁, hopen₁, -⟩ := arriveAt_eq_next.1 h
    obtain rfl : ep = ep₁ := Option.some.inj (hep.symm.trans hep₁)
    simp [hclosed] at hopen₁
  · rw [heq, hp, List.tail_nil]

theorem exec_irqlog_of_not_avail {i : Instr} {s t : State} (hc : s.created = true) (h : exec i s = .next t)
    (ha : rxAvail s = false) : t.irqlog = s.irqlog := by
  have hi := ne_create_of_exec_next hc h
  obtain ⟨-, rfl⟩ := exec_eq_next.1 h
  simp [effect_irqlog hi, ha]

/-- In `u` the input is exhausted, and since `s` no request was made and RXC never rose. -/
def SilentSince (s u : State) : Prop :=
  InputExhausted u ∧ u.irqlog = s.irqlog ∧ (rxcSet s = false → rxcSet u = false)

theorem exec_silentSince {i : Instr} {s u v : State} (hb : bindsInput i = false) (hwf : u.cfg.WF)
    (hc : u.created = true) (h : exec i u = .next v) (hs : SilentSince s u) : SilentSince s v := by
  obtain ⟨hexh, hlog, hclear⟩ := hs
  have ha := rxAvail_of_inputExhausted hexh
  refine ⟨exec_inputExhausted hb h hexh, (exec_irqlog_of_not_avail hc h ha).trans hlog, fun hs => ?_⟩
  by_contra hset
  obtain ⟨-, ha'⟩ := poll_of_rxc_rises hwf hc h (hclear hs) (eq_true_of_ne_false hset)
  simp [ha] at ha'

/-- Settles O47: the input stays exhausted, so no poll of the sequence finds anything. -/
theorem exhaustedSourceStaysSilent : Obligations.ExhaustedSourceStaysSilent := by
  intro ops s t ep hwf hc hep hp hclosed hbinds h
  obtain ⟨hexh, hlog, hclear⟩ : SilentSince s t :=
    execAll_keeps (fun i hi _ _ => exec_silentSince (hbinds i hi)) hwf hc h ⟨⟨ep, hep, hp, hclosed⟩, rfl, id⟩
  exact ⟨hlog, rxAvail_of_inputExhausted hexh, hclear⟩

end Sys2Proof.Machine

/-! Proofs of the host configuration family: the machine before `create`; `create` itself; the two rebinds; and the one condition raised to the host. -/

namespace Sys2Proof.Machine

/-! ### Before `create` nothing is registered (rules R91, R92, R100) -/

theorem handlerAt_of_not_created {s : State} (hI : s.Inv) (hc : s.created = false) (addr : Nat) :
    handlerAt s addr = none := by
  obtain ⟨-, -, -, hnot, -⟩ := hI
  obtain ⟨hhandlers, -⟩ := hnot hc
  simp [handlerAt, hhandlers]

theorem resolveAccess_byte_of_not_created {s : State} {addr : Nat} (f : Register → Resolution) (hI : s.Inv)
    (hc : s.created = false) (haddr : addr < 2 ^ s.cfg.addrWidth) : resolveAccess s addr 1 f = .notThisBlock := by
  have hin : inAddressSpace s.cfg addr 1 = true := decide_eq_true haddr
  simp [resolveAccess, hin, handlerAt_of_not_created hI hc]

theorem resolveTick_of_not_created {s : State} (hI : s.Inv) (hc : s.created = false) : resolveTick s = .notThisBlock := by
  obtain ⟨-, -, -, hnot, -⟩ := hI
  obtain ⟨-, hpoll, -⟩ := hnot hc
  simp [resolveTick, hpoll]

/-- Settles O12, by the event: no handler routes the access, and no poll is enrolled for the tick. -/
theorem beforeCreateBusAndTickReachNothing : Obligations.BeforeCreateBusAndTickReachNothing := by
  intro s rest ev hI hc hs hev
  apply step_of_notThisBlock hs
  obtain rfl | ⟨addr, haddr, rfl | ⟨v, rfl⟩⟩ := hev
  · exact resolveTick_of_not_created hI hc
  · exact resolveAccess_byte_of_not_created _ hI hc haddr
  · exact resolveAccess_byte_of_not_created _ hI hc haddr

/-! ### `create` (rule R88) -/

theorem exec_create {s : State} (hc : s.created = false) : exec .create s = .next (effect .create s) :=
  exec_eq_next.2 ⟨by simp [stopOf, hc], rfl⟩

/-- What a `create` with a supported standard input leaves, whole (rules R36, R88). -/
theorem effect_create_of_supported {s : State} (h : inputSupported s standardInput = true) :
    effect .create s = { s with
      status := s.cfg.statusReset, control := s.cfg.controlReset
      inEP := standardInput, outEP := standardOutput, created := true
      txlog := [], irqlog := [], handlers := s.handlers ++ addressMap s.cfg, pollEnrolled := true
      out := Outputs.idle } := by
  simp only [effect, if_pos h]
  apply state_ext
  case h9 => simp [addressMap]
  all_goals rfl

theorem effect_create_of_unsupported {s : State} (h : inputSupported s standardInput = false) :
    effect .create s = raiseConfigurationError standardInput (releaseOutputs s) := by
  simp [effect, h]

/-- A status byte at its reset value has RXC clear (rules R7, R36). -/
theorem rxcSet_of_statusReset {s : State} (hwf : s.cfg.WF) (h : s.status = s.cfg.statusReset) : rxcSet s = false := by
  obtain ⟨-, -, -, -, -, -, -, -, -, -, hrxc⟩ := hwf
  rw [rxcSet, h, rxcMask, isset_bitMask, hrxc]

theorem exec_readData_of_clear {s : State} (hc : s.created = true) (hr : rxcSet s = false) :
    exec .readData s = .next { s with out := { Outputs.idle with rdata := some 0x00#8 } } :=
  (exec_of_busMaster rfl hc).trans (congrArg _ (effect_readData_of_clear hr))

/-- Settles O25: all of it is read off the state `create` leaves. -/
theorem createGivesResetState : Obligations.CreateGivesResetState := by
  refine ⟨rfl, fun _ => rfl, fun s hc => exec_eq_refused.2 (if_pos hc), fun s hc hk => ?_⟩
  have hnext := exec_create hc
  rw [effect_create_of_supported hk] at hnext
  refine ⟨_, hnext, rfl, fun hnot => ?handlers, fun hwf => rxcSet_of_statusReset hwf rfl, fun hwf => ?read,
    fun hcfg => ?p0⟩
  case handlers =>
    obtain ⟨hhandlers, -⟩ := hnot hc
    exact congrArg (· ++ addressMap s.cfg) hhandlers
  case read => exact ⟨_, exec_readData_of_clear rfl (rxcSet_of_statusReset hwf rfl), rfl⟩
  case p0 =>
    simp only [statusRead, hcfg]
    decide

/-! ### An entry of the table as operand (rules R28, R63) -/

theorem lt_length_of_endpointAt {s : State} {ref : Nat} {ep : Endpoint} (h : endpointAt s ref = some ep) :
    ref < s.endpoints.length :=
  (List.getElem?_eq_some_iff.1 h).1

theorem inputSupported_of_endpointAt {s : State} {ref : Nat} {ep : Endpoint} (h : endpointAt s ref = some ep) :
    inputSupported s ref = supportedInputKind s.cfg ep.inputKind := by
  simp [inputSupported, h]

/-! ### `setInputEndpoint` (rules R89, R93) -/

theorem exec_setInputEndpoint {s : State} {e : BitVec 8} {ep : Endpoint} (hc : s.created = true)
    (h : endpointAt s e.toNat = some ep) :
    exec (.setInputEndpoint e) s = .next (rebindInput e.toNat (releaseOutputs s)) :=
  execSetInputEndpoint_eq_next.2 ⟨hc, lt_length_of_endpointAt h, rfl⟩

theorem rebindInput_of_supported {s : State} {ref : Nat} (h : inputSupported s ref = true) :
    rebindInput ref s = { s with inEP := ref } := if_pos h

theorem rebindInput_of_unsupported {s : State} {ref : Nat} (h : inputSupported s ref = false) :
    rebindInput ref s = raiseConfigurationError ref s := by
  simp [rebindInput, h]

/-- A read fails where nothing is pending, on any endpoint (rule R30). -/
theorem rxAnswer_of_no_pending {s : State} (h : pendingInput s = []) : rxAnswer s = none := by
  by_contra hne
  obtain ⟨b, hb⟩ := Option.ne_none_iff_exists'.1 hne
  simpa [h] using rxAnswer_head hb

/-- With a byte pending on a canonical input, a poll makes the next `readData` hand it back, whatever RXC was
(rules R74, R80). -/
theorem poll_then_readData_delivers {b : Byte} {bytes : List Byte} {s : State} {ep : Endpoint} (hwf : s.cfg.WF)
    (hc : s.created = true) (hep : endpointAt s s.inEP = some ep) (hk : ep.inputKind = .canonical)
    (hp : ep.pending = b :: bytes) :
    ∃ u x, exec .poll s = .next u ∧ exec .readData u = .next x ∧ x.out.rdata = some b := by
  have hpoll := exec_poll hc
  obtain ⟨hc', hcfg⟩ := exec_created hc hpoll
  have havail : rxAvail s = true := by rw [rxAvail_canonical hep hk, hp]; rfl
  have hset : rxcSet (effect .poll s) = true := by rw [rxcSet_effect_poll, havail, Bool.or_true]
  have hep' : endpointAt (effect .poll s) (effect .poll s).inEP = some ep := by
    rw [effect_poll]
    exact hep
  obtain ⟨hbyte, -⟩ := readData_delivers (hcfg ▸ hwf) hc' hset hep' hk hp
  exact ⟨_, _, hpoll, exec_of_busMaster rfl hc', hbyte⟩

/-- Settles O26, by whether the kind is supported; where it is, the new binding is what a later read or poll meets. -/
theorem setInputEndpointRebindsOnly : Obligations.SetInputEndpointRebindsOnly := by
  refine ⟨assemble_eq_or 0b11#2 0b01#2, fun _ _ => rfl, fun s e ep hwf hc hep => ?_⟩
  have hnext := exec_setInputEndpoint hc hep
  have hkind : inputSupported (releaseOutputs s) e.toNat = supportedInputKind s.cfg ep.inputKind :=
    inputSupported_of_endpointAt hep
  constructor
  · intro hno
    rw [hnext, rebindInput_of_unsupported (hkind.trans hno)]
    rfl
  · intro hyes
    rw [rebindInput_of_supported (hkind.trans hyes)] at hnext
    set t : State := { releaseOutputs s with inEP := e.toNat } with ht
    have hread : exec .readData t = .next (effect .readData t) := exec_of_busMaster rfl hc
    have hbound : endpointAt t t.inEP = some ep := hep
    refine ⟨t, hnext, rfl, fun hr hp => ?empty, fun b rest hr hk hp => ?byte, fun hr => ?clear,
      fun b rest hk hp => poll_then_readData_delivers (s := t) hwf hc hbound hk hp, fun hsame => ?same⟩
    case empty =>
      have hfail : rxAnswer t = none := rxAnswer_of_no_pending ((pendingInput_of_endpointAt hbound).trans hp)
      exact ⟨_, hread, effect_readData_rdata_of_failed hr hfail, exec_rxc (s := t) hwf hc hread,
        effect_readData_endpoints_of_failed hfail⟩
    case byte =>
      obtain ⟨hbyte, -⟩ := readData_delivers (s := t) hwf hc hr hbound hk hp
      exact ⟨_, hread, hbyte, fun ref hne => effect_endpointAt_of_ne hne⟩
    case clear => exact ⟨_, exec_readData_of_clear hc hr, rfl, rfl⟩
    case same =>
      rw [ht, hsame]
      rfl

/-! ### `setOutputEndpoint` (rule R90) -/

theorem exec_setOutputEndpoint {s : State} {e : BitVec 8} {ep : Endpoint} (hc : s.created = true)
    (h : endpointAt s e.toNat = some ep) :
    exec (.setOutputEndpoint e) s = .next (rebindOutput e.toNat (releaseOutputs s)) :=
  execSetOutputEndpoint_eq_next.2 ⟨hc, lt_length_of_endpointAt h, rfl⟩

/-- Settles O27: after the rebind the bound output, which `writeData` alone touches, is the named entry. -/
theorem setOutputEndpointRebindsOnly : Obligations.SetOutputEndpointRebindsOnly := by
  refine ⟨assemble_eq_or 0b11#2 0b10#2, fun _ _ => rfl, fun s e ep hc hep => ?_⟩
  refine ⟨_, exec_setOutputEndpoint hc hep, rfl, fun v => ?_⟩
  set t := rebindOutput e.toNat (releaseOutputs s)
  have hbound : endpointAt t t.outEP = some ep := hep
  refine ⟨effect (.writeData v) t, exec_of_busMaster rfl hc, effect_txlog (by simp) t,
    fun ref hne => effect_endpointAt_of_ne hne, fun hk => ?_⟩
  exact (effect_writeData_boundEntry v hbound).trans (by rw [if_pos (txAccepted_canonical hbound hk)])

/-! ### `ConfigurationError` (rules R93, R99) -/

/-- What an operation that raises anything is, and all that it does. -/
theorem effect_of_raised {i : Instr} {s : State} (h : (effect i s).out.raised ≠ none) :
    (i = .create ∨ ∃ e, i = .setInputEndpoint e) ∧
      ∃ ref, inputSupported s ref = false ∧ effect i s = raiseConfigurationError ref (releaseOutputs s) := by
  cases i with
  | readStatus | writeStatus | readControl | writeControl | readData | writeData =>
    exact absurd (effect_raised_of_busMaster rfl s) h
  | poll => exact absurd (congrArg Outputs.raised (effect_poll_out s)) h
  | setOutputEndpoint | rxArrive => exact absurd rfl h
  | create =>
    cases hk : inputSupported s standardInput with
    | true => simp [effect_create_of_supported hk] at h
    | false => exact ⟨.inl rfl, standardInput, hk, effect_create_of_unsupported hk⟩
  | setInputEndpoint e =>
    cases hk : inputSupported s e.toNat with
    | true => simp [effect, rebindInput_of_supported (s := releaseOutputs s) hk] at h
    | false => exact ⟨.inr ⟨e, rfl⟩, e.toNat, hk, rebindInput_of_unsupported (s := releaseOutputs s) hk⟩

/-- Settles O28: an operation that raises anything does nothing else. -/
theorem configurationErrorLeavesStateUnchanged : Obligations.ConfigurationErrorLeavesStateUnchanged := by
  refine ⟨fun i s t h hraised => ?_, fun s hc hno => ?_⟩
  · obtain ⟨-, rfl⟩ := exec_eq_next.1 h
    obtain ⟨hi, ref, hno, heffect⟩ := effect_of_raised hraised
    rw [heffect]
    exact ⟨hi, rfl, ref, rfl, hno⟩
  · rw [exec_create hc, effect_create_of_unsupported hno]
    rfl

end Sys2Proof.Machine

/-! Proofs of the exceptions family: when a request is made; how requests are paid for by reads; and the bus operations, which raise nothing. -/

namespace Sys2Proof.Machine

/-! ### When a request is made (rules R102, R103, R109) -/

theorem exec_irqlog {i : Instr} {s t : State} (hc : s.created = true) (h : exec i s = .next t) :
    t.irqlog = s.irqlog ++ if Requests i s then [s.cfg.rxIrqLine] else [] := by
  have hi := ne_create_of_exec_next hc h
  obtain ⟨-, rfl⟩ := exec_eq_next.1 h
  exact effect_irqlog hi s

/-- Before `create` only `create` itself and the environment's arrival answer a next state (rule R100). -/
theorem create_or_rxArrive_of_not_created {i : Instr} {s t : State} (hc : s.created = false)
    (h : exec i s = .next t) : i = .create ∨ ∃ b, i = .rxArrive b := by
  by_contra hno
  obtain ⟨hi, hr⟩ := not_or.1 hno
  have hstop := stopOf_of_not_created hc hi (not_exists.1 hr)
  exact absurd (exec_eq_next.1 h).1 (by simp [hstop])

/-- No operation on a machine without the block makes a request; a `create` that succeeds empties the log (rule R88). -/
theorem exec_irqlog_of_not_created {i : Instr} {s t : State} (hc : s.created = false) (h : exec i s = .next t) :
    t.irqlog = s.irqlog ∨ t.irqlog = [] := by
  have hi := create_or_rxArrive_of_not_created hc h
  obtain ⟨-, rfl⟩ := exec_eq_next.1 h
  obtain rfl | ⟨b, rfl⟩ := hi
  · cases hk : inputSupported s standardInput with
    | true => exact .inr (by rw [effect_create_of_supported hk])
    | false => exact .inl (by rw [effect_create_of_unsupported hk]; rfl)
  · exact .inl rfl

/-- Settles O23: the log by whether the block exists, and the pulse of every effect. -/
theorem requestExactlyOnEnabledRisingEdge : Obligations.RequestExactlyOnEnabledRisingEdge := by
  intro i s t h
  refine ⟨fun hc => exec_irqlog hc h, fun hc => exec_irqlog_of_not_created hc h, ?_⟩
  obtain ⟨-, rfl⟩ := exec_eq_next.1 h
  exact effect_irqReq i s

/-- A step that performs no operation leaves the request log as it was (rules R32, R67, R131). -/
theorem step_irqlog_or_exec {s t : State} (h : step s = .next t) :
    t.irqlog = s.irqlog ∨ ∃ i rest, exec i { s with stimuli := rest } = .next t := by
  obtain ⟨rest, u, rfl, rfl | ⟨i, h⟩ | ⟨bytes, h⟩ | ⟨ref, b, h⟩ | ⟨ref, h⟩⟩ := step_next_cases h
  · exact .inl rfl
  · exact .inr ⟨i, rest, h⟩
  · obtain ⟨-, rfl⟩ := bindFreshInput_eq_next.1 h; exact .inl rfl
  · obtain ⟨-, -, -, rfl⟩ := arriveAt_eq_next.1 h; exact .inl rfl
  · obtain ⟨-, -, -, -, rfl⟩ := drainAt_eq_next.1 h; exact .inl rfl

/-- Settles O39: only an operation could, and on the created block it appends one request or none. -/
theorem noStepTakesARequestBack : Obligations.NoStepTakesARequestBack := by
  intro s t h hc
  obtain hlog | ⟨i, rest, h⟩ := step_irqlog_or_exec h
  · exact ⟨[], by rw [hlog, List.append_nil], Nat.zero_le 1⟩
  · exact ⟨_, exec_irqlog (s := { s with stimuli := rest }) hc h, by split <;> simp⟩

/-! ### Every request is paid for by a read (rules R104, R107) -/

theorem receivedReads_cons {i : Instr} {s t : State} (h : exec i s = .next t) (ops : List Instr) :
    receivedReads (i :: ops) s = receivedReads [i] s + receivedReads ops t := by
  simp [receivedReads, h]

/-- A `readData` that finds RXC set is counted (rule R74). -/
theorem receivedReads_readData {s t : State} (h : exec .readData s = .next t) (hs : rxcSet s = true) :
    receivedReads [.readData] s = 1 := by
  simp [receivedReads, h, hs]

/-- How many bytes are detected and unread: one if RXC is set (rule R23). -/
abbrev unreadBytes (s : State) : Nat := if rxcSet s then 1 else 0

/-- A request raises RXC with it, and RXC falls only where the read is counted (rules R82, R104). -/
theorem exec_requests_bounded {i : Instr} {s t : State} (hwf : s.cfg.WF) (hc : s.created = true)
    (h : exec i s = .next t) :
    t.irqlog.length + unreadBytes s ≤ s.irqlog.length + receivedReads [i] s + unreadBytes t := by
  cases hs : rxcSet s with
  | true =>
    rw [exec_irqlog_of_rxc hc h hs]
    cases ht : rxcSet t with
    | true => simp [unreadBytes, hs, ht]
    | false =>
      obtain rfl := readData_of_rxc_falls hwf hc h hs ht
      simp [unreadBytes, hs, ht, receivedReads_readData h hs]
  | false =>
    rw [exec_irqlog hc h]
    by_cases hr : Requests i s
    · have ht : rxcSet t = true := by
        obtain ⟨rfl, ha, -, -⟩ := hr
        simp [exec_rxc hwf hc h, ha]
      rw [if_pos hr]
      simp [unreadBytes, hs, ht]
    · rw [if_neg hr]
      simp [unreadBytes, hs, Nat.add_assoc]

/-- Each operation keeps the bound, so the sequence does. -/
theorem execAll_requests_bounded {ops : List Instr} {s t : State} (hwf : s.cfg.WF) (hc : s.created = true)
    (h : execAll ops s = some t) :
    t.irqlog.length + unreadBytes s ≤ s.irqlog.length + receivedReads ops s + unreadBytes t := by
  induction ops generalizing s with
  | nil =>
    obtain rfl : s = t := Option.some.inj h
    exact le_rfl
  | cons i ops ih =>
    obtain ⟨u, hu, hrest⟩ := execAll_cons h
    obtain ⟨hcu, hcfg⟩ := exec_created hc hu
    have hfirst := exec_requests_bounded hwf hc hu
    have hops := ih (hcfg ▸ hwf) hcu hrest
    rw [receivedReads_cons hu]
    omega

/-- Settles O48: RXC at the start and at the end counts the one byte that is detected and unread. -/
theorem requestsAreBoundedByReads : Obligations.RequestsAreBoundedByReads :=
  fun _ _ _ => execAll_requests_bounded

/-! ### The bus operations raise nothing (rules R76, R96) -/

/-- Settles O30: nothing stops such an operation, and its effect raises nothing. -/
theorem busOperationsNeverFail : Obligations.BusOperationsNeverFail := by
  intro i s hc hi
  have hnext := exec_of_busMaster hi hc
  exact ⟨_, hnext, effect_raised_of_busMaster hi s, (exec_created hc hnext).1⟩

end Sys2Proof.Machine
